-- ==== Sys2Proof/Word.lean ====
section
/-! DEFINITION. The two bit-vector widths the spec uses: a byte of a buffer or an element of GF(256)
(00_scope.md R9, 40_gf_tables.md R75), and the 32-bit unit of every CSR and command word
(10_state.md R23, 30_encoding.md R61). -/

namespace Sys2Proof

/-- A byte of a buffer, a GF(256) element, or the window byte of a matrix cell. -/
abbrev Byte := BitVec 8

/-- A CSR or a command word. -/
abbrev Word := BitVec 32

end Sys2Proof
end

