-- ==== Sys2Proof/Syntax.lean ====
section
/-! DEFINITION. The commands of the QRE (30_encoding.md R70), one constructor per row of
spec/opcode_table.json. A constructor carries exactly the fields its opcode reads (R71), each as the raw
field of the command word (R62): a field value the command refuses (R64 to R67) is a legal word that
completes with an error code, so it is an operand like any other. The fields an opcode does not read are
ignored (R69) and are no part of the command (log 13). -/

namespace Sys2Proof

/-- The error-correction levels (00_scope.md R16, 30_encoding.md R64). -/
inductive Level where
  | m | l | h | q
  deriving DecidableEq, Repr

/-- The data modes (30_encoding.md R66). -/
inductive Mode where
  | numeric | alphanumeric | octet
  deriving DecidableEq, Repr

/-- A configuration field that may leave the choice to the engine (90_conflicts.md C14: `Auto | Fixed v`). -/
inductive Choice (α : Type) where
  | auto
  | fixed (v : α)
  deriving DecidableEq, Repr

/-- The 19 commands. -/
inductive Instr where
  | nop
  | tblinit
  | gfmul
  | gfexp
  | gflog
  | genrd
  | capq (ecc : BitVec 3) (ver : BitVec 6) (mode : BitVec 4)
  | bchq (ecc : BitVec 3) (ver : BitVec 6) (mask : BitVec 4)
  | validate (mode : BitVec 4)
  | pack (ecc : BitVec 3) (ver : BitVec 6) (mode : BitVec 4)
  | rsrem
  | augment (ecc : BitVec 3) (ver : BitVec 6)
  | buildbase (ver : BitVec 6)
  | place
  | applymask (mask : BitVec 4)
  | writefmt (ecc : BitVec 3) (mask : BitVec 4)
  | score
  | select (ecc : BitVec 3) (mask : BitVec 4)
  | generate (ecc : BitVec 3) (ver : BitVec 6) (mode : BitVec 4) (mask : BitVec 4)
  deriving DecidableEq, Repr

end Sys2Proof
end

