-- ==== Sys2Proof/Decode.lean ====
section
/-! DEFINITION. From a command word to a command and back (30_encoding.md R61 to R72). The decoder is
total: on a word that is no command it says which of the two reserved encodings of R72 it met. -/

namespace Sys2Proof

/-- Why a word or a byte sequence is no command. -/
inductive DecodeError where
  /-- Fewer than the four bytes of a command word (R61). -/
  | short
  /-- RSVD, bits 31:22, is not 0 (R68). -/
  | reservedBits
  /-- OP is 0x13 to 0x1F (R63, R72). -/
  | reservedOpcode
  deriving DecidableEq, Repr

/-! The fields of the format CF (R62). -/

def fieldOp (w : Word) : BitVec 5 := w.extractLsb' 0 5
def fieldEcc (w : Word) : BitVec 3 := w.extractLsb' 5 3
def fieldVer (w : Word) : BitVec 6 := w.extractLsb' 8 6
def fieldMode (w : Word) : BitVec 4 := w.extractLsb' 14 4
def fieldMask (w : Word) : BitVec 4 := w.extractLsb' 18 4
def fieldRsvd (w : Word) : BitVec 10 := w.extractLsb' 22 10

/-- The opcode map of R70 on the fields of a word. -/
def decodeFields (op : BitVec 5) (ecc : BitVec 3) (ver : BitVec 6) (mode mask : BitVec 4) :
    Except DecodeError Instr :=
  match op.toNat with
  | 0x00 => .ok .nop
  | 0x01 => .ok .tblinit
  | 0x02 => .ok .gfmul
  | 0x03 => .ok .gfexp
  | 0x04 => .ok .gflog
  | 0x05 => .ok .genrd
  | 0x06 => .ok (.capq ecc ver mode)
  | 0x07 => .ok (.bchq ecc ver mask)
  | 0x08 => .ok (.validate mode)
  | 0x09 => .ok (.pack ecc ver mode)
  | 0x0A => .ok .rsrem
  | 0x0B => .ok (.augment ecc ver)
  | 0x0C => .ok (.buildbase ver)
  | 0x0D => .ok .place
  | 0x0E => .ok (.applymask mask)
  | 0x0F => .ok (.writefmt ecc mask)
  | 0x10 => .ok .score
  | 0x11 => .ok (.select ecc mask)
  | 0x12 => .ok (.generate ecc ver mode mask)
  | _ => .error .reservedOpcode

/-- The command of a command word: RSVD first, "whatever its OP" (R68), then the opcode map. -/
def decodeWord (w : Word) : Except DecodeError Instr :=
  if fieldRsvd w = 0 then
    decodeFields (fieldOp w) (fieldEcc w) (fieldVer w) (fieldMode w) (fieldMask w)
  else .error .reservedBits

/-- The word that four bytes make on the little-endian bus (20_memory.md R48), the first in bits 7:0. -/
def wordOfBytes (b0 b1 b2 b3 : Byte) : Word := b3 ++ b2 ++ b1 ++ b0

/-- The command at the front of a byte sequence and the bytes after it; every command is one 32-bit word (R61). -/
def decodeBytes : List Byte → Except DecodeError (Instr × List Byte)
  | b0 :: b1 :: b2 :: b3 :: rest => (decodeWord (wordOfBytes b0 b1 b2 b3)).map fun i => (i, rest)
  | _ => .error .short

/-- `OP | (ECC << 5) | (VER << 8) | (MODE << 14) | (MASK << 18)`, with RSVD 0 (R62). -/
def wordOfFields (op : BitVec 5) (ecc : BitVec 3) (ver : BitVec 6) (mode mask : BitVec 4) : Word :=
  (0 : BitVec 10) ++ mask ++ mode ++ ver ++ ecc ++ op

/-- The word of a command; "fields the opcode does not read assemble as 0" (R73). -/
def encode : Instr → Word
  | .nop => wordOfFields 0x00 0 0 0 0
  | .tblinit => wordOfFields 0x01 0 0 0 0
  | .gfmul => wordOfFields 0x02 0 0 0 0
  | .gfexp => wordOfFields 0x03 0 0 0 0
  | .gflog => wordOfFields 0x04 0 0 0 0
  | .genrd => wordOfFields 0x05 0 0 0 0
  | .capq ecc ver mode => wordOfFields 0x06 ecc ver mode 0
  | .bchq ecc ver mask => wordOfFields 0x07 ecc ver 0 mask
  | .validate mode => wordOfFields 0x08 0 0 mode 0
  | .pack ecc ver mode => wordOfFields 0x09 ecc ver mode 0
  | .rsrem => wordOfFields 0x0A 0 0 0 0
  | .augment ecc ver => wordOfFields 0x0B ecc ver 0 0
  | .buildbase ver => wordOfFields 0x0C 0 ver 0 0
  | .place => wordOfFields 0x0D 0 0 0 0
  | .applymask mask => wordOfFields 0x0E 0 0 0 mask
  | .writefmt ecc mask => wordOfFields 0x0F ecc 0 0 mask
  | .score => wordOfFields 0x10 0 0 0 0
  | .select ecc mask => wordOfFields 0x11 ecc 0 0 mask
  | .generate ecc ver mode mask => wordOfFields 0x12 ecc ver mode mask

/-- The four bytes of a word on the little-endian bus (20_memory.md R48). -/
def bytesOfWord (w : Word) : List Byte :=
  [w.extractLsb' 0 8, w.extractLsb' 8 8, w.extractLsb' 16 8, w.extractLsb' 24 8]

/-- The 32-bit command word whose low `nbits` bits are those of `w`, every bit above them 0. -/
def tableWord (nbits w : Nat) : Word := BitVec.ofNat 32 (w % 2 ^ nbits)

/-- What the decoder reads from the word `w` of the opcode table, laid out in bytes as the bus stores it. -/
def decodeTableWord (nbits w : Nat) : Option Instr :=
  match decodeBytes (bytesOfWord (tableWord nbits w)) with
  | .ok (i, _) => some i
  | .error _ => none

end Sys2Proof
end

