-- ==== Sys2Proof/Config.lean ====
section
/-! DEFINITION. What the spec leaves to an implementation or to chance: the window's bus address
(00_scope.md R10, parameter `QRE_BASE`) and the values it writes `any` (00_scope.md R14). Neither has
a body, so no proof can use a particular value. `CMD_LATENCY`, the other open parameter, is not a
constant: it is where the engine's turn stands among the host's (log 1). -/

namespace Sys2Proof.Config

/-- The k-th value the spec calls `any`, "a value the spec does not fix: a model draws it freely, under no
law" (R14). Every occurrence uses a number of its own, counted by `State.draws` (log 4). Narrower values
are its low bits. -/
opaque freeValue : Nat → Word

/-- `QRE_BASE` is "a multiple of 0x40000" (R10): this many times 0x40000 (log 6). -/
opaque qreBaseIndex : Nat

/-- The size of the window on the host bus (20_memory.md R43). -/
def windowSize : Nat := 0x40000

/-- `QRE_BASE`, the bus address of offset 0 of the window (R10). -/
def qreBase : Nat := windowSize * qreBaseIndex

end Sys2Proof.Config
end

