-- ==== Sys2Proof/Machine/State.lean ====
section
/-! DEFINITION. Every piece of state the spec gives the QRE (10_state.md R42: "No other state exists"),
the machine right after reset, and the reasons a step can stop. Four fields are the model's own and hold
the outside of the machine or a device of the model: `turns` (log 1), `reply` (log 7), `inReset` (log 8)
and `draws` (log 4). -/

namespace Sys2Proof.Machine

/-- The matrix phase MSTATE (R38). -/
inductive Phase where
  | empty | base | placed | final
  deriving DecidableEq, Repr

/-- The error codes of STATUS.ERRCODE (60_exceptions.md R155). Codes 10 to 15 are never written, so they
have no name. -/
inductive ErrCode where
  | ok
  | invalidMode
  | invalidDataFormat
  | invalidECCLevel
  | invalidVersion
  | dataTooLarge
  | invalidMask
  | illegalCommand
  | sequenceError
  | operandRange
  deriving DecidableEq, Repr

/-- The contents of the three GF arrays (R34): EXP has 255 entries, LOG 256, and `gen` holds GEN[0] to
GEN[30], GEN[K] with K entries in exponent form. -/
structure GfTables where
  exp : List Byte
  log : List Byte
  gen : List (List Byte)
  deriving DecidableEq, Repr

/-- What the engine holds of a command in flight beside its word, which is the CMD read value (R41): the
FOLD value sampled at acceptance (60_exceptions.md R159). -/
structure InFlight where
  fold : Bool
  deriving DecidableEq, Repr

/-- One host access to the window, at an offset from QRE_BASE (20_memory.md R43, log 6). `width` is the
access width in bits, any number (R49, log 14); the low `width` bits of `data` are written. -/
inductive Access where
  | read (off : BitVec 18) (width : Nat)
  | write (off : BitVec 18) (width : Nat) (data : Word)
  deriving DecidableEq, Repr

/-- Who acts next (log 1). The host's accesses stand in its program order (R53); `engine` is the moment a
command in flight runs to completion, so the host turns before it are the accesses that fall in its BUSY
window (70_reset_and_hazards.md R174); the two reset edges are the platform's (R169). -/
inductive Turn where
  | host (a : Access)
  | engine
  | resetAssert
  | resetRelease
  deriving DecidableEq, Repr

/-- The bus's answer to a host access (20_memory.md R50, R51): `none` before the first. -/
inductive Reply where
  | none
  | done
  | data (w : Word)
  | busError
  deriving DecidableEq, Repr

/-- The buffers IBUF, CWB, ILB and ECCB and the arrays MTX and RSV, as the bytes of the window that hold
them (R44), strictly rising by offset; what an unlisted offset reads as is `unlisted` in Machine/Ops.lean.
A matrix cell is the byte 0 or 1 (R46). -/
abbrev Memory := List Host.Cell

/-- The whole machine. -/
structure State where
  /-- The CMD read value: the last accepted command word (R25). -/
  cmd : Word
  /-- The command in flight; STATUS.BUSY is 1 exactly while there is one (R26, R41). -/
  inflight : Option InFlight
  /-- STATUS.DONE (R26). -/
  done : Bool
  /-- STATUS.ERRCODE, and with it STATUS.ERR (R26). -/
  err : ErrCode
  /-- STATUS.OVR (R26). -/
  ovr : Bool
  /-- STATUS.ACCERR (R26). -/
  accerr : Bool
  /-- CTRL.IE (R27). -/
  ie : Bool
  /-- CTRL.FOLD (R27). -/
  fold : Bool
  /-- LEN (R28). -/
  len : BitVec 14
  /-- ARGA (R29). -/
  argA : Word
  /-- ARGB (R29). -/
  argB : Word
  /-- RES0 to RES4 (R30). -/
  res0 : Word
  res1 : Word
  res2 : Word
  res3 : Word
  res4 : Word
  /-- SB0 to SB7 (R32). -/
  sb : Vector Word 8
  /-- MINFO.MVER (R31, R39). -/
  mver : BitVec 6
  /-- MINFO.MSTATE (R31, R38). -/
  phase : Phase
  /-- The GF arrays, and with them STATUS.TBLV (R34, R40, log 17). -/
  tables : Option GfTables
  /-- IBUF, CWB, ILB, ECCB, MTX and RSV (R36, R37). -/
  mem : Memory
  /-- The platform holds reset asserted (70_reset_and_hazards.md R169, log 8). -/
  inReset : Bool
  /-- The turns still to come (log 1). -/
  turns : List Turn
  /-- The answer to the last host access (log 7). -/
  reply : Reply
  /-- How many free values have been drawn (log 4). -/
  draws : Nat
  deriving DecidableEq, Repr

/-- No step ends in a fault: an erring command completes with an error code (60_exceptions.md R160) and a
bad host access gets a bus error and changes nothing (20_memory.md R50). Nobody raises one; safe. -/
inductive Fault where
  deriving DecidableEq, Repr

/-- Why the model would refuse a command. -/
inductive Refusal where
  /-- A command that has no meaning yet, by its name in spec/opcode_table.json; raised by a refused arm of
  `exec` only, and there is none. Safe: the model stops. -/
  | notModelled (mnemonic : String)
  deriving DecidableEq, Repr

/-- The state after reset, R42's table; `turns`, `reply` and `draws` are the model's own (logs 1, 7, 4). -/
def State.reset : State where
  cmd := 0
  inflight := none
  done := false
  err := .ok
  ovr := false
  accerr := false
  ie := false
  fold := true
  len := 0
  argA := 0
  argB := 0
  res0 := 0
  res1 := 0
  res2 := 0
  res3 := 0
  res4 := 0
  sb := #v[0, 0, 0, 0, 0, 0, 0, 0]
  mver := 0
  phase := .empty
  tables := none
  mem := []
  inReset := false
  turns := []
  reply := .none
  draws := 0

end Sys2Proof.Machine
end

