-- ==== Sys2Proof/Machine/Ops.lean ====
section
/-! DEFINITION. The operations every command and host access is written with: the map of the window
(20_memory.md R44), memory in canonical form, the engine's access primitives (R59), the free values of
`any` (R14), and acceptance, completion and error of a command (60_exceptions.md R159 to R161). The last
is this machine's only exception: it saves nothing and transfers no control (R163), and what R163 calls
the return from one is the next acceptance. -/

namespace Sys2Proof.Machine

/-! ## The window -/

/-- The regions of R44. -/
inductive Region where
  | csr | ibuf | cwb | ilb | eccb | expwin | logwin | genwin | mtxwin | rsvwin | unmapped
  deriving DecidableEq, Repr

def ibufBase : Nat := 0x02000
def cwbBase : Nat := 0x04000
def ilbBase : Nat := 0x05000
def eccbBase : Nat := 0x06000
def mtxBase : Nat := 0x10000
def rsvBase : Nat := 0x20000

/-- The buffer sizes of 00_scope.md R9. -/
def ibufSize : Nat := 8192
def cwbSize : Nat := 4096
def ilbSize : Nat := 4096
def eccbSize : Nat := 32

/-- MTX and RSV are 177 by 177 cells (R9, 10_state.md R37). -/
def maxSide : Nat := 177

/-- The region of an offset (R44). -/
def regionOf (a : Nat) : Region :=
  if a ≤ 0x000FF then .csr
  else if a ≤ 0x01FFF then .unmapped
  else if a ≤ 0x03FFF then .ibuf
  else if a ≤ 0x04FFF then .cwb
  else if a ≤ 0x05FFF then .ilb
  else if a ≤ 0x0601F then .eccb
  else if a ≤ 0x06FFF then .unmapped
  else if a ≤ 0x070FF then .expwin
  else if a ≤ 0x071FF then .logwin
  else if a ≤ 0x075FF then .genwin
  else if a ≤ 0x0FFFF then .unmapped
  else if a ≤ 0x1FFFF then .mtxwin
  else if a ≤ 0x2FFFF then .rsvwin
  else .unmapped

/-- The row and column of an offset in a matrix window (R46). -/
def rowOf (a : Nat) : Nat := a % 0x10000 / 256
def colOf (a : Nat) : Nat := a % 256

/-- The offset of cell (r, c) of the array whose window starts at `base` (R46). -/
def cellAddr (base r c : Nat) : Nat := base + 256 * r + c

/-- The offset in a matrix window is a cell of the 177-by-177 array (R46). -/
def isCell (a : Nat) : Bool := decide (rowOf a < maxSide) && decide (colOf a < maxSide)

/-- The offset holds a byte of a buffer, a cell of MTX or a cell of RSV: what `Memory` may list. -/
def isStorage (a : Nat) : Bool :=
  match regionOf a with
  | .ibuf | .cwb | .ilb | .eccb => true
  | .mtxwin | .rsvwin => isCell a
  | _ => false

/-! ## Memory -/

/-- What an offset that memory does not list reads as. Bytes of the buffers and cells of MTX are unwritten
(`none`, R36, R37); everything else, in particular a cell of RSV, is 0 (R42, log 5). -/
def unlisted (a : Nat) : Option Byte :=
  match regionOf a with
  | .ibuf | .cwb | .ilb | .eccb => none
  | .mtxwin => if isCell a then none else some 0
  | _ => some 0

/-- The canonical form: offsets strictly rising, and no entry equal to what its offset reads as unlisted. -/
abbrev Memory.wf (m : Memory) : Prop :=
  m.Pairwise (fun e e' => e.1 < e'.1) ∧ ∀ e ∈ m, unlisted e.1 ≠ some e.2

/-- The byte at an offset, `none` when unwritten. -/
def Memory.read (m : Memory) (a : Nat) : Option Byte :=
  match m.find? (fun e => e.1 == a) with
  | some e => some e.2
  | none => unlisted a

/-- The contents of the `n` offsets from `a` on. -/
def Memory.slice (m : Memory) (a n : Nat) : List (Option Byte) :=
  let part : Memory := m.filter fun e => decide (a ≤ e.1) && decide (e.1 < a + n)
  (List.range' a n).map part.read

/-- The entries of consecutive contents from `a` on, in canonical form. -/
def Memory.entries : Nat → List (Option Byte) → Memory
  | _, [] => []
  | a, none :: vs => Memory.entries (a + 1) vs
  | a, some b :: vs =>
      if unlisted a = some b then Memory.entries (a + 1) vs else (a, b) :: Memory.entries (a + 1) vs

/-- Consecutive offsets from `a` on take the given contents; `none` makes a byte or cell unwritten. -/
def Memory.setRange (m : Memory) (a : Nat) (vs : List (Option Byte)) : Memory :=
  (m.filter fun e => decide (e.1 < a)) ++ Memory.entries a vs ++
    (m.filter fun e => decide (a + vs.length ≤ e.1))

/-- Consecutive bytes are stored from `a` on. -/
def Memory.writeBytes (m : Memory) (a : Nat) (bs : List Byte) : Memory := m.setRange a (bs.map some)

/-- One byte is stored. -/
def Memory.write (m : Memory) (a : Nat) (b : Byte) : Memory := m.setRange a [some b]

/-- Row `r` of the n-by-n square of the array at `base` is rewritten cell by cell: cell (r, c) goes from
content `x` to `f r c x`. -/
def Memory.mapRow (base n : Nat) (f : Nat → Nat → Option Byte → Option Byte) (m : Memory) (r : Nat) : Memory :=
  m.setRange (cellAddr base r 0) ((m.slice (cellAddr base r 0) n).mapIdx (f r))

/-- The n-by-n square of the array at `base` is rewritten cell by cell (44_matrix.md R122: cells outside
the square keep their values). -/
def Memory.mapSquare (base n : Nat) (f : Nat → Nat → Option Byte → Option Byte) (m : Memory) : Memory :=
  (List.range n).foldl (Memory.mapRow base n f) m

/-! ## Free values -/

/-- A byte the spec calls `any`. -/
def freeByte (k : Nat) : Byte := (Config.freeValue k).setWidth 8

/-- A one-bit value the spec calls `any`. -/
def freeBit (k : Nat) : Bool := (Config.freeValue k).getLsbD 0

/-- A matrix cell as the byte its window shows (R46). -/
def cellByte (b : Bool) : Byte := if b then 1 else 0

/-- The cell a window byte stands for: its bit 0 (R46). -/
def byteCell (b : Byte) : Bool := b.getLsbD 0

/-- `n` free values have been used up. -/
def State.drew (s : State) (n : Nat) : State := { s with draws := s.draws + n }

/-! ## The engine's reads (R59) -/

/-- The `n` bytes from offset `a` on, each read once; an unwritten byte reads as a free value of its own. -/
def State.readBytes (s : State) (a n : Nat) : List Byte :=
  (s.mem.slice a n).mapIdx fun i o => o.getD (freeByte (s.draws + i))

/-- The input data IBUF[0 .. LEN-1]. -/
def State.inputBytes (s : State) : List Byte := s.readBytes ibufBase s.len.toNat

/-- The side of the current symbol, `4*MVER + 17` (44_matrix.md R122). -/
def State.side (s : State) : Nat := 4 * s.mver.toNat + 17

/-- Row `r` of the current square of MTX. An unwritten cell, which no reachable state holds where a command
reads (R59, log 9), reads as a free value of its own. -/
def State.matrixRow (s : State) (r : Nat) : List Bool :=
  (s.mem.slice (cellAddr mtxBase r 0) s.side).mapIdx fun c o =>
    (o.map byteCell).getD (freeBit (s.draws + (s.side * r + c)))

/-- The current square of MTX, row by row. -/
def State.matrix (s : State) : List (List Bool) := (List.range s.side).map s.matrixRow

/-- The current square of RSV, row by row: which cells are reserved. -/
def State.reserved (s : State) : List (List Bool) :=
  (List.range s.side).map fun r =>
    (s.mem.slice (cellAddr rsvBase r 0) s.side).map fun o => (o.map byteCell).getD false

/-- Cell (r, c) of a square held row by row. -/
def cellAt (g : List (List Bool)) (r c : Nat) : Bool := (g.getD r []).getD c false

/-! ## Acceptance, completion, error -/

/-- STATUS.BUSY (10_state.md R26). -/
def State.busy (s : State) : Bool := s.inflight.isSome

/-- Acceptance of a command word: the CMD read value becomes it, FOLD is sampled, BUSY is set, DONE, ERRCODE
and ERR are cleared (R159). -/
def State.accept (s : State) (w : Word) : State :=
  { s with cmd := w, inflight := some { fold := s.fold }, done := false, err := .ok }

/-- Completion with code `c`: ERRCODE and ERR are written, BUSY is cleared, DONE is set (R160). -/
def State.complete (s : State) (c : ErrCode) : State :=
  { s with inflight := none, done := true, err := c }

/-- `raise E`: completion with the code of E, and nothing else (R161). -/
def State.raise (s : State) (e : ErrCode) : State := s.complete e

/-- `done`: completion with code 0 (R14). -/
def State.finish (s : State) : State := s.complete .ok

/-- The FOLD value of the command in flight, sampled at its acceptance (R159); with no command in flight,
where no step runs a command, CTRL.FOLD itself (log 12). -/
def State.sampledFold (s : State) : Bool :=
  match s.inflight with
  | some f => f.fold
  | none => s.fold

/-- Assertion of the platform reset: a command in flight is discarded without completion (R169), at this edge
already, a DESIGN CHOICE (log 8). -/
def State.assertReset (s : State) : State := { s with inReset := true, inflight := none }

/-- Release of the platform reset: every piece of state takes its reset value (R169, R42). The turns to
come, the last bus answer and the draw counter are not the machine's (logs 1, 7, 4). A release with no
reset asserted is no event. -/
def State.releaseReset (s : State) : State :=
  if s.inReset then { State.reset with turns := s.turns, reply := s.reply, draws := s.draws } else s

end Sys2Proof.Machine
end

