-- ==== Sys2Proof/Machine/Flags.lean ====
section
/-! DEFINITION. The QRE's only flags, the STATUS bits (10_state.md R26, R33), the other status and control
words as software reads and writes them (R24, R27, R28, R31), and the interrupt output (60_exceptions.md
R166). -/

namespace Sys2Proof.Machine

/-- The number of an error code (60_exceptions.md R155). -/
def ErrCode.code : ErrCode → BitVec 4
  | .ok => 0
  | .invalidMode => 1
  | .invalidDataFormat => 2
  | .invalidECCLevel => 3
  | .invalidVersion => 4
  | .dataTooLarge => 5
  | .invalidMask => 6
  | .illegalCommand => 7
  | .sequenceError => 8
  | .operandRange => 9

/-- STATUS.ERR: "equals 1 exactly when ERRCODE is not 0" (R26). -/
def State.errFlag (s : State) : Bool := s.err != .ok

/-- STATUS.TBLV: 1 when the GF tables have been built (R26, R40). While a command that builds them is in flight it
still reads as at acceptance, a DESIGN CHOICE (log 23). -/
def State.tblv (s : State) : Bool := s.tables.isSome

/-- The STATUS word (R26): reserved bits 31:10, ACCERR, OVR, ERRCODE, TBLV, ERR, DONE, BUSY. -/
def State.statusWord (s : State) : Word :=
  (0 : BitVec 22) ++ BitVec.ofBool s.accerr ++ BitVec.ofBool s.ovr ++ s.err.code ++
    BitVec.ofBool s.tblv ++ BitVec.ofBool s.errFlag ++ BitVec.ofBool s.done ++ BitVec.ofBool s.busy

/-- A host write of STATUS: "clears each of DONE, OVR and ACCERR whose written bit is 1 and changes nothing
else" (R26). -/
def State.writeStatus (s : State) (w : Word) : State :=
  { s with
    done := s.done && !w.getLsbD 1
    ovr := s.ovr && !w.getLsbD 8
    accerr := s.accerr && !w.getLsbD 9 }

/-- The CTRL word (R27). -/
def State.ctrlWord (s : State) : Word :=
  (0 : BitVec 30) ++ BitVec.ofBool s.fold ++ BitVec.ofBool s.ie

/-- A host write of CTRL (R27). -/
def State.writeCtrl (s : State) (w : Word) : State :=
  { s with ie := w.getLsbD 0, fold := w.getLsbD 1 }

/-- The number of a matrix phase (R31). -/
def Phase.code : Phase → BitVec 2
  | .empty => 0
  | .base => 1
  | .placed => 2
  | .final => 3

/-- MSIZE: `4*MVER + 17` when MVER is not 0, else 0 (R31). -/
def State.msize (s : State) : BitVec 8 := if s.mver = 0 then 0 else BitVec.ofNat 8 s.side

/-- The MINFO word (R31). -/
def State.minfoWord (s : State) : Word :=
  (0 : BitVec 8) ++ s.msize ++ (0 : BitVec 6) ++ s.phase.code ++ (0 : BitVec 2) ++ s.mver

/-- ID (R24): "QR", source edition 7, QRE-CMD revision 1. -/
def idValue : Word := 0x51520701

/-- The interrupt output: `IRQ = CTRL.IE & STATUS.DONE` (R166). -/
def State.irq (s : State) : Bool := s.ie && s.done

end Sys2Proof.Machine
end

