-- ==== Sys2Proof/Machine/Operands.lean ====
section
/-! DEFINITION. The operands of the commands: the field codes of the command word (30_encoding.md R64 to
R67) and the sub-fields of the operand registers (10_state.md R28, R29). A field function answers `none`
where the field is refused. -/

namespace Sys2Proof.Machine

/-- The two-bit level code (R64): it indexes the columns of VROM and enters the format code. -/
def levelCode : Level → Nat
  | .m => 0
  | .l => 1
  | .h => 2
  | .q => 3

/-- ECC: 0 = M, 1 = L, 2 = H, 3 = Q; 4 to 7 are refused (R64). -/
def levelOf (ecc : BitVec 3) : Option Level :=
  match ecc.toNat with
  | 0 => some .m
  | 1 => some .l
  | 2 => some .h
  | 3 => some .q
  | _ => none

/-- VER where no automatic choice is accepted: 1 to 40 (R65). -/
def versionOf (ver : BitVec 6) : Option Nat :=
  if 1 ≤ ver.toNat ∧ ver.toNat ≤ 40 then some ver.toNat else none

/-- VER of GENERATE: 0 is auto (R65). -/
def versionChoice (ver : BitVec 6) : Option (Choice Nat) :=
  if ver.toNat = 0 then some .auto else (versionOf ver).map .fixed

/-- The mode indicator, which is the MODE field code (R66). -/
def modeCode : Mode → Nat
  | .numeric => 1
  | .alphanumeric => 2
  | .octet => 4

/-- MODE where no automatic choice is accepted: 1, 2 or 4 (R66). -/
def modeOf (mode : BitVec 4) : Option Mode :=
  match mode.toNat with
  | 1 => some .numeric
  | 2 => some .alphanumeric
  | 4 => some .octet
  | _ => none

/-- MODE of VALIDATE and GENERATE: 0 is auto (R66). -/
def modeChoice (mode : BitVec 4) : Option (Choice Mode) :=
  if mode.toNat = 0 then some .auto else (modeOf mode).map .fixed

/-- MASK where no automatic choice is accepted: 0 to 7 (R67). -/
def maskOf (mask : BitVec 4) : Option Nat :=
  if mask.toNat ≤ 7 then some mask.toNat else none

/-- MASK of SELECT and GENERATE: 15 is auto (R67). -/
def maskChoice (mask : BitVec 4) : Option (Choice Nat) :=
  if mask.toNat = 15 then some .auto else (maskOf mask).map .fixed

/-- RSREM's operands: the start ARGA, the block length ARGB[15:0], the degree ARGB[23:16] and ARGB[31:24],
which must be 0 (43_ecc.md R120). -/
def State.remStart (s : State) : Nat := s.argA.toNat
def State.remLen (s : State) : Nat := (s.argB.extractLsb' 0 16).toNat
def State.remDegree (s : State) : Nat := (s.argB.extractLsb' 16 8).toNat
def State.remTop (s : State) : Nat := (s.argB.extractLsb' 24 8).toNat

/-- The matrix holds reserved cells and a version: MSTATE is not EMPTY (70_reset_and_hazards.md R175). -/
def State.hasBase (s : State) : Bool := s.phase != .empty

/-- Every cell of the symbol holds a value: MSTATE is PLACED or FINAL (R175). -/
def State.hasData (s : State) : Bool := s.phase == .placed || s.phase == .final

end Sys2Proof.Machine
end

