-- ==== Sys2Proof/Machine/Gf.lean ====
section
/-! DEFINITION. The GF(256) unit (40_gf_tables.md): the tables and their construction, the field product,
and the commands TBLINIT, GFMUL, GFEXP, GFLOG and GENRD. -/

namespace Sys2Proof.Machine

/-! ## The tables -/

/-- `EXP[i+1]` from `EXP[i]`: shift in nine bits and reduce by 0x11D (R76). -/
def xtime (x : Byte) : Byte :=
  let t : BitVec 9 := x.setWidth 9 <<< 1
  (if t.getLsbD 8 then t ^^^ 0x11D else t).setWidth 8

/-- `n` successive powers of α from `x` on. -/
def powersFrom : Nat → Byte → List Byte
  | 0, _ => []
  | n + 1, x => x :: powersFrom n (xtime x)

/-- EXP[0..254] (R76). -/
def expTable : List Byte := powersFrom 255 1

/-- LOG[0..255], the inverse of EXP: `LOG[EXP[i]]` is i, and LOG[0] is the sentinel 0xFF (R77). -/
def logTable : List Byte :=
  (List.range 256).map fun x =>
    if x = 0 then 0xFF else BitVec.ofNat 8 (expTable.idxOf (BitVec.ofNat 8 x))

/-- `EXP[i]`. -/
def GfTables.expAt (t : GfTables) (i : Nat) : Byte := t.exp.getD i 0

/-- `LOG[x]`. -/
def GfTables.logAt (t : GfTables) (x : Byte) : Byte := t.log.getD x.toNat 0xFF

/-- `GEN[K]`. -/
def GfTables.genAt (t : GfTables) (k : Nat) : List Byte := t.gen.getD k []

/-- GEN[K] from `p` = GEN[K-1]: multiplication by (x ⊕ α^(K-1)) in exponent form (R80). -/
def genStep (t : GfTables) (k : Nat) (p : List Byte) : List Byte :=
  (List.range k).map fun j =>
    let a : Byte := if j < k - 1 then t.expAt (p.getD j 0).toNat else 0
    let e : Nat := if j = 0 then 0 else (p.getD (j - 1) 0).toNat
    let b : Byte := t.expAt (((k - 1) + e) % 255)
    t.logAt (a ^^^ b)

/-- GEN[K], GEN[K+1], ... from `p` = GEN[K-1] on. -/
def genFrom (t : GfTables) : Nat → Nat → List Byte → List (List Byte)
  | 0, _, _ => []
  | n + 1, k, p => let g := genStep t k p; g :: genFrom t n (k + 1) g

/-- `build_tables()`: EXP, then LOG, then GEN[1] to GEN[30] after the empty GEN[0] (R81). -/
def builtTables : GfTables :=
  let t : GfTables := { exp := expTable, log := logTable, gen := [] }
  { t with gen := [] :: genFrom t 30 1 [] }

/-- The tables a command reads: built now if TBLV is 0 (R82). -/
def State.gf (s : State) : GfTables := s.tables.getD builtTables

/-- `if TBLV == 0: build_tables()` (R82). -/
def State.needTables (s : State) : State := { s with tables := some s.gf }

/-! ## The field product -/

/-- `gfmul(a, b)` through the tables (R78). -/
def GfTables.mul (t : GfTables) (a b : Byte) : Byte :=
  if a = 0 ∨ b = 0 then 0 else t.expAt (((t.logAt a).toNat + (t.logAt b).toNat) % 255)

/-! ## The commands -/

/-- TBLINIT builds the tables, "even when TBLV is already 1" (R83). -/
def execTblinit (s : State) : Host.Outcome State Fault Refusal :=
  .next { s with tables := some builtTables }.finish

/-- GFMUL: RES0 is the product of ARGA[7:0] and ARGB[7:0] (R84). -/
def execGfmul (s : State) : Host.Outcome State Fault Refusal :=
  if s.argA.toNat ≤ 0xFF ∧ s.argB.toNat ≤ 0xFF then
    .next { s.needTables with
      res0 := (s.gf.mul (s.argA.setWidth 8) (s.argB.setWidth 8)).setWidth 32 }.finish
  else .next (s.raise .operandRange)

/-- GFEXP: RES0 is EXP[ARGA] (R85). -/
def execGfexp (s : State) : Host.Outcome State Fault Refusal :=
  if s.argA.toNat ≤ 254 then
    .next { s.needTables with res0 := (s.gf.expAt s.argA.toNat).setWidth 32 }.finish
  else .next (s.raise .operandRange)

/-- GFLOG: RES0 is LOG[ARGA], the sentinel 0xFF for 0 (R86). -/
def execGflog (s : State) : Host.Outcome State Fault Refusal :=
  if s.argA.toNat ≤ 255 then
    .next { s.needTables with res0 := (s.gf.logAt (s.argA.setWidth 8)).setWidth 32 }.finish
  else .next (s.raise .operandRange)

/-- GENRD: RES0 is GEN[ARGA][ARGB], RES1 the coefficient as a field element (R87). -/
def execGenrd (s : State) : Host.Outcome State Fault Refusal :=
  if 1 ≤ s.argA.toNat ∧ s.argA.toNat ≤ 30 ∧ s.argB.toNat < s.argA.toNat then
    let g : Byte := (s.gf.genAt s.argA.toNat).getD s.argB.toNat 0
    .next { s.needTables with res0 := g.setWidth 32, res1 := (s.gf.expAt g.toNat).setWidth 32 }.finish
  else .next (s.raise .operandRange)

end Sys2Proof.Machine
end

