-- ==== Sys2Proof/Machine/Bus.lean ====
section
/-! DEFINITION. The host's side of the window (20_memory.md R43 to R52, 10_state.md R23 to R32): which
accesses get a bus error, what a read returns, what a write does, and the guarded accesses while BUSY. -/

namespace Sys2Proof.Machine

/-! ## Legality and guarding -/

/-- The access does not get a bus error: a CSR 32 bits wide at a 4-aligned offset; a buffer or window 8 bits
anywhere, 16 at an even or 32 at a 4-aligned offset; nothing unmapped (R44, R49). -/
def accessLegal (a width : Nat) : Bool :=
  match regionOf a with
  | .unmapped => false
  | .csr => width == 32 && a % 4 == 0
  | _ => width == 8 || (width == 16 && a % 2 == 0) || (width == 32 && a % 4 == 0)

/-- A buffer or a window: guarded while BUSY, for reads and writes (R52). -/
def isGuarded (a : Nat) : Bool :=
  match regionOf a with
  | .csr | .unmapped => false
  | _ => true

/-- LEN, ARGA and ARGB: guarded while BUSY, for writes (R52). -/
def isOperandReg (a : Nat) : Bool := a == 0x010 || a == 0x014 || a == 0x018

/-- RES0 to RES4, MINFO and SB0 to SB7: reads return `any` while BUSY (R52). -/
def isResultReg (a : Nat) : Bool :=
  decide (0x01C ≤ a ∧ a ≤ 0x030) || decide (0x040 ≤ a ∧ a ≤ 0x05C)

/-! ## Reads -/

/-- The value of the CSR at a 4-aligned offset (R23); reserved offsets read 0. -/
def State.csrValue (s : State) (a : Nat) : Word :=
  match a with
  | 0x000 => idValue
  | 0x004 => s.cmd
  | 0x008 => s.statusWord
  | 0x00C => s.ctrlWord
  | 0x010 => s.len.setWidth 32
  | 0x014 => s.argA
  | 0x018 => s.argB
  | 0x01C => s.res0
  | 0x020 => s.res1
  | 0x024 => s.res2
  | 0x028 => s.res3
  | 0x02C => s.res4
  | 0x030 => s.minfoWord
  | 0x040 => s.sb[0]
  | 0x044 => s.sb[1]
  | 0x048 => s.sb[2]
  | 0x04C => s.sb[3]
  | 0x050 => s.sb[4]
  | 0x054 => s.sb[5]
  | 0x058 => s.sb[6]
  | 0x05C => s.sb[7]
  | _ => 0

/-- A CSR read: the register, or `any` for a result register while BUSY (R52). -/
def State.readCsr (s : State) (a : Nat) : Word :=
  if s.busy && isResultReg a then Config.freeValue s.draws else s.csrValue a

/-- A byte of EXPWIN, LOGWIN or GENWIN: the table entry; 0 outside the tables and before the build (R45). -/
def State.tableByte (s : State) (a : Nat) : Byte :=
  match s.tables with
  | none => 0
  | some t =>
    match regionOf a with
    | .expwin => t.exp.getD (a % 256) 0
    | .logwin => t.log.getD (a % 256) 0
    | .genwin => (t.gen.getD ((a - 0x7200) / 32) []).getD (a % 32) 0
    | _ => 0

/-- One byte of a buffer or window, drawing the free value `k` if it is unwritten; of an unwritten MTX cell
only bit 0 is free (R45, R46). -/
def State.windowByte (s : State) (k a : Nat) : Byte :=
  match regionOf a with
  | .expwin | .logwin | .genwin => s.tableByte a
  | .mtxwin => (s.mem.read a).getD (cellByte (freeBit k))
  | _ => (s.mem.read a).getD (freeByte k)

/-- `n` bytes of a buffer or window, the byte at the lowest offset in bits 7:0 (R48). -/
def State.windowWord (s : State) (a n : Nat) : Word :=
  (List.range n).foldr (fun i w => (w <<< 8) ||| (s.windowByte (s.draws + i) (a + i)).setWidth 32) 0

/-- The low `width` bits of a free value. -/
def freeWord (k width : Nat) : Word := ((Config.freeValue k).setWidth width).setWidth 32

/-- A host read (R49 to R52, R169). Every read uses up four free values, so that each read that needs one
gets its own (log 4). -/
def State.hostRead (s : State) (a width : Nat) : State :=
  if s.inReset then { s.drew 4 with reply := .data (freeWord s.draws width) }
  else if !accessLegal a width then { s with reply := .busError }
  else if !isGuarded a then { s.drew 4 with reply := .data (s.readCsr a) }
  else if s.busy then { s.drew 4 with reply := .data (freeWord s.draws width), accerr := true }
  else { s.drew 4 with reply := .data (s.windowWord a (width / 8)) }

/-! ## Writes -/

/-- A write of the CSR at a 4-aligned offset (R23 to R32): CMD issues a command, or is dropped with OVR while
BUSY (30_encoding.md R60, 60_exceptions.md R164); LEN, ARGA and ARGB are guarded (R52); read-only and
reserved offsets ignore it. -/
def State.writeCsr (s : State) (a : Nat) (w : Word) : State :=
  if s.busy && isOperandReg a then { s with accerr := true } else
  match a with
  | 0x004 => if s.busy then { s with ovr := true } else s.accept w
  | 0x008 => s.writeStatus w
  | 0x00C => s.writeCtrl w
  | 0x010 => { s with len := w.setWidth 14 }
  | 0x014 => { s with argA := w }
  | 0x018 => { s with argB := w }
  | _ => s

/-- One byte stored by the host: a buffer byte, or bit 0 of it in an MTX cell; the table windows, RSVWIN and
the matrix window outside the array ignore it (R44 to R46). -/
def hostStore (m : Memory) (a : Nat) (b : Byte) : Memory :=
  match regionOf a with
  | .ibuf | .cwb | .ilb | .eccb => m.write a b
  | .mtxwin => if isCell a then m.write a (cellByte (byteCell b)) else m
  | _ => m

/-- `n` bytes of a word stored by the host, bits 7:0 at the lowest offset (R48), together (R51). -/
def hostStoreBytes (m : Memory) (a n : Nat) (w : Word) : Memory :=
  (List.range n).foldl (fun m i => hostStore m (a + i) (w.extractLsb' (8 * i) 8)) m

/-- A host write (R49 to R52, R169). -/
def State.hostWrite (s : State) (a width : Nat) (w : Word) : State :=
  if s.inReset then { s with reply := .done }
  else if !accessLegal a width then { s with reply := .busError }
  else if !isGuarded a then { s.writeCsr a w with reply := .done }
  else if s.busy then { s with reply := .done, accerr := true }
  else { s with reply := .done, mem := hostStoreBytes s.mem a (width / 8) w }

/-- A host access (R43). -/
def State.hostAccess (s : State) (x : Access) : State :=
  match x with
  | .read off width => s.hostRead off.toNat width
  | .write off width data => s.hostWrite off.toNat width data

/-! ## Bus addresses -/

/-- The offset of a bus address in the window, if it lies there (R43, 00_scope.md R10). -/
def windowOffset (addr : Nat) : Option (BitVec 18) :=
  if Config.qreBase ≤ addr ∧ addr < Config.qreBase + Config.windowSize then
    some (BitVec.ofNat 18 (addr - Config.qreBase))
  else none

/-- `MemRead(addr, n)` of `n` bytes (00_scope.md R13): the access the QRE sees, if any. -/
def memRead (addr n : Nat) : Option Access := (windowOffset addr).map fun off => .read off (8 * n)

/-- `MemWrite(addr, n, v)` of `n` bytes (00_scope.md R13). -/
def memWrite (addr n : Nat) (v : Word) : Option Access :=
  (windowOffset addr).map fun off => .write off (8 * n) v

end Sys2Proof.Machine
end

