-- ==== Sys2Proof/Machine/Capacity.lean ====
section
/-! DEFINITION. The capacity unit (41_capacity.md): the version table VROM, the module counts and
capacities, the length indicator, the maximum data length, the BCH codes, and the commands CAPQ and BCHQ. -/

namespace Sys2Proof.Machine

/-! ## The version table -/

/-- A figure for each level, in VROM's column order M, L, H, Q (R89). -/
structure PerLevel where
  m : Nat
  l : Nat
  h : Nat
  q : Nat
  deriving DecidableEq, Repr

/-- One row of VROM: `alignmentPositions`, `eccBlockDegree`, `eccBlockCount` (R89). -/
structure VRow where
  align : List Nat
  degree : PerLevel
  count : PerLevel
  deriving DecidableEq, Repr

/-- The figure of one level. -/
def PerLevel.at (p : PerLevel) : Level → Nat
  | .m => p.m
  | .l => p.l
  | .h => p.h
  | .q => p.q

/-- VROM, versions 1 to 10 (R89). -/
def vrom1 : List VRow := [
  ⟨[], ⟨10, 7, 17, 13⟩, ⟨1, 1, 1, 1⟩⟩,
  ⟨[6, 18], ⟨16, 10, 28, 22⟩, ⟨1, 1, 1, 1⟩⟩,
  ⟨[6, 22], ⟨26, 15, 22, 18⟩, ⟨1, 1, 2, 2⟩⟩,
  ⟨[6, 26], ⟨18, 20, 16, 26⟩, ⟨2, 1, 4, 2⟩⟩,
  ⟨[6, 30], ⟨24, 26, 22, 18⟩, ⟨2, 1, 4, 4⟩⟩,
  ⟨[6, 34], ⟨16, 18, 28, 24⟩, ⟨4, 2, 4, 4⟩⟩,
  ⟨[6, 22, 38], ⟨18, 20, 26, 18⟩, ⟨4, 2, 5, 6⟩⟩,
  ⟨[6, 24, 42], ⟨22, 24, 26, 22⟩, ⟨4, 2, 6, 6⟩⟩,
  ⟨[6, 26, 46], ⟨22, 30, 24, 20⟩, ⟨5, 2, 8, 8⟩⟩,
  ⟨[6, 28, 50], ⟨26, 18, 28, 24⟩, ⟨5, 4, 8, 8⟩⟩]

/-- VROM, versions 11 to 20 (R89). -/
def vrom2 : List VRow := [
  ⟨[6, 30, 54], ⟨30, 20, 24, 28⟩, ⟨5, 4, 11, 8⟩⟩,
  ⟨[6, 32, 58], ⟨22, 24, 28, 26⟩, ⟨8, 4, 11, 10⟩⟩,
  ⟨[6, 34, 62], ⟨22, 26, 22, 24⟩, ⟨9, 4, 16, 12⟩⟩,
  ⟨[6, 26, 46, 66], ⟨24, 30, 24, 20⟩, ⟨9, 4, 16, 16⟩⟩,
  ⟨[6, 26, 48, 70], ⟨24, 22, 24, 30⟩, ⟨10, 6, 18, 12⟩⟩,
  ⟨[6, 26, 50, 74], ⟨28, 24, 30, 24⟩, ⟨10, 6, 16, 17⟩⟩,
  ⟨[6, 30, 54, 78], ⟨28, 28, 28, 28⟩, ⟨11, 6, 19, 16⟩⟩,
  ⟨[6, 30, 56, 82], ⟨26, 30, 28, 28⟩, ⟨13, 6, 21, 18⟩⟩,
  ⟨[6, 30, 58, 86], ⟨26, 28, 26, 26⟩, ⟨14, 7, 25, 21⟩⟩,
  ⟨[6, 34, 62, 90], ⟨26, 28, 28, 30⟩, ⟨16, 8, 25, 20⟩⟩]

/-- VROM, versions 21 to 30 (R89). -/
def vrom3 : List VRow := [
  ⟨[6, 28, 50, 72, 94], ⟨26, 28, 30, 28⟩, ⟨17, 8, 25, 23⟩⟩,
  ⟨[6, 26, 50, 74, 98], ⟨28, 28, 24, 30⟩, ⟨17, 9, 34, 23⟩⟩,
  ⟨[6, 30, 54, 78, 102], ⟨28, 30, 30, 30⟩, ⟨18, 9, 30, 25⟩⟩,
  ⟨[6, 28, 54, 80, 106], ⟨28, 30, 30, 30⟩, ⟨20, 10, 32, 27⟩⟩,
  ⟨[6, 32, 58, 84, 110], ⟨28, 26, 30, 30⟩, ⟨21, 12, 35, 29⟩⟩,
  ⟨[6, 30, 58, 86, 114], ⟨28, 28, 30, 28⟩, ⟨23, 12, 37, 34⟩⟩,
  ⟨[6, 34, 62, 90, 118], ⟨28, 30, 30, 30⟩, ⟨25, 12, 40, 34⟩⟩,
  ⟨[6, 26, 50, 74, 98, 122], ⟨28, 30, 30, 30⟩, ⟨26, 13, 42, 35⟩⟩,
  ⟨[6, 30, 54, 78, 102, 126], ⟨28, 30, 30, 30⟩, ⟨28, 14, 45, 38⟩⟩,
  ⟨[6, 26, 52, 78, 104, 130], ⟨28, 30, 30, 30⟩, ⟨29, 15, 48, 40⟩⟩]

/-- VROM, versions 31 to 40 (R89). -/
def vrom4 : List VRow := [
  ⟨[6, 30, 56, 82, 108, 134], ⟨28, 30, 30, 30⟩, ⟨31, 16, 51, 43⟩⟩,
  ⟨[6, 34, 60, 86, 112, 138], ⟨28, 30, 30, 30⟩, ⟨33, 17, 54, 45⟩⟩,
  ⟨[6, 30, 58, 86, 114, 142], ⟨28, 30, 30, 30⟩, ⟨35, 18, 57, 48⟩⟩,
  ⟨[6, 34, 62, 90, 118, 146], ⟨28, 30, 30, 30⟩, ⟨37, 19, 60, 51⟩⟩,
  ⟨[6, 30, 54, 78, 102, 126, 150], ⟨28, 30, 30, 30⟩, ⟨38, 19, 63, 53⟩⟩,
  ⟨[6, 24, 50, 76, 102, 128, 154], ⟨28, 30, 30, 30⟩, ⟨40, 20, 66, 56⟩⟩,
  ⟨[6, 28, 54, 80, 106, 132, 158], ⟨28, 30, 30, 30⟩, ⟨43, 21, 70, 59⟩⟩,
  ⟨[6, 32, 58, 84, 110, 136, 162], ⟨28, 30, 30, 30⟩, ⟨45, 22, 74, 62⟩⟩,
  ⟨[6, 26, 54, 82, 110, 138, 166], ⟨28, 30, 30, 30⟩, ⟨47, 24, 77, 65⟩⟩,
  ⟨[6, 30, 58, 86, 114, 142, 170], ⟨28, 30, 30, 30⟩, ⟨49, 25, 81, 68⟩⟩]

/-- VROM (R89): row `v - 1` is version `v`. -/
def vrom : List VRow := vrom1 ++ vrom2 ++ vrom3 ++ vrom4

/-- The row of version `v`. Outside 1 to 40, which no command reaches, an empty row (log 16). -/
def vrow (v : Nat) : VRow := vrom.getD (v - 1) ⟨[], ⟨0, 0, 0, 0⟩, ⟨0, 0, 0, 0⟩⟩

def alignPositions (v : Nat) : List Nat := (vrow v).align

/-- `eccBlockDegree[e]`, the ECC codewords per block. -/
def blockDegree (v : Nat) (e : Level) : Nat := (vrow v).degree.at e

/-- `eccBlockCount[e]`, the blocks. -/
def blockCount (v : Nat) (e : Level) : Nat := (vrow v).count.at e

/-! ## Counts and capacities -/

/-- The side of a version-v symbol (R90). -/
def sideOf (v : Nat) : Nat := 4 * v + 17

/-- `m(v)`, the alignment positions per axis (R90). -/
def alignCount (v : Nat) : Nat := (alignPositions v).length

/-- `RAW(v)` (R91). -/
def rawModules (v : Nat) : Nat :=
  let n := sideOf v
  let m := alignCount v
  n * n - 225 - (2 * n - 34) - (if v > 6 then 36 else 0) -
    (if m > 0 then 25 * m * m - 10 * m - 55 else 0)

/-- `totalDataBits(v)`, TDB (R92). -/
def totalDataBits (v : Nat) : Nat := rawModules v - rawModules v % 8

/-- `T(v)`, the codewords of the symbol (R92). -/
def totalCodewords (v : Nat) : Nat := totalDataBits v / 8

/-- `dataCapacityBits(v, e)` (R93). -/
def dataCapacityBits (v : Nat) (e : Level) : Nat :=
  totalDataBits v - 8 * blockDegree v e * blockCount v e

/-- `D(v, e)`, the data codewords (R93). -/
def dataCodewords (v : Nat) (e : Level) : Nat := dataCapacityBits v e / 8

/-- `lengthIndicatorBits(v, mode)`: thresholds at versions 10 and 27 (R95). -/
def lengthIndicatorBits (v : Nat) : Mode → Nat
  | .numeric => if v < 10 then 10 else if v < 27 then 12 else 14
  | .alphanumeric => if v < 10 then 9 else if v < 27 then 11 else 13
  | .octet => if v < 10 then 8 else 16

/-- `maxDataLength(v, mode, e)` in elements (R96). -/
def maxDataLength (v : Nat) (mo : Mode) (e : Level) : Nat :=
  let nb := dataCapacityBits v e - 4 - lengthIndicatorBits v mo
  match mo with
  | .numeric => nb / 10 * 3 + (if nb % 10 < 4 then 0 else if nb % 10 < 7 then 1 else 2)
  | .alphanumeric => nb / 11 * 2 + (if nb % 11 < 6 then 0 else 1)
  | .octet => nb / 8

/-- `autoVersion(len, mode, e)`: the least version that fits (R97). -/
def autoVersion (len : Nat) (mo : Mode) (e : Level) : Option Nat :=
  (List.range' 1 40).find? fun v => decide (len ≤ maxDataLength v mo e)

/-! ## BCH codes -/

/-- The reduction of `augmentBCH`: bits `q + p - 1` down to `q` are cleared (R98). -/
def bchReduce (genpoly q : Nat) : Nat → Nat → Nat
  | 0, r => r
  | i + 1, r => bchReduce genpoly q i (if r.testBit (q + i) then r ^^^ (genpoly <<< i) else r)

/-- `augmentBCH(value, p, genpoly, q)`: the p-bit value followed by its q check bits (R98). -/
def augmentBCH (value p genpoly q : Nat) : Nat :=
  (value <<< q) ||| bchReduce genpoly q p (value <<< q)

/-- The format code `fmt(e, m)`, 15 bits (R99). -/
def formatCode (e : Level) (m : Nat) : Nat :=
  augmentBCH ((levelCode e <<< 3) ||| m) 5 0x537 10 ^^^ 0x5412

/-- The version code `vcode(v)`, 18 bits (R100). -/
def versionCode (v : Nat) : Nat := augmentBCH v 6 0x1F25 12

/-! ## The commands -/

/-- CAPQ: the capacity figures of a version, level and mode (R101). -/
def execCapq (ecc : BitVec 3) (ver : BitVec 6) (mode : BitVec 4) (s : State) :
    Host.Outcome State Fault Refusal :=
  match modeOf mode with
  | none => .next (s.raise .invalidMode)
  | some mo =>
  match levelOf ecc with
  | none => .next (s.raise .invalidECCLevel)
  | some e =>
  match versionOf ver with
  | none => .next (s.raise .invalidVersion)
  | some v =>
    .next { s with
      res0 := BitVec.ofNat 32 (dataCapacityBits v e)
      res1 := BitVec.ofNat 32 (maxDataLength v mo e)
      res2 := BitVec.ofNat 32 (lengthIndicatorBits v mo ||| (blockDegree v e <<< 8) |||
        (blockCount v e <<< 16) ||| (alignCount v <<< 24))
      res3 := BitVec.ofNat 32 (totalDataBits v ||| (rawModules v <<< 16))
      res4 := BitVec.ofNat 32 (sideOf v) }.finish

/-- BCHQ: the format code of a level and mask and the version code (R102). -/
def execBchq (ecc : BitVec 3) (ver : BitVec 6) (mask : BitVec 4) (s : State) :
    Host.Outcome State Fault Refusal :=
  match levelOf ecc with
  | none => .next (s.raise .invalidECCLevel)
  | some e =>
  match versionOf ver with
  | none => .next (s.raise .invalidVersion)
  | some v =>
  match maskOf mask with
  | none => .next (s.raise .invalidMask)
  | some m =>
    .next { s with
      res0 := BitVec.ofNat 32 (formatCode e m)
      res1 := BitVec.ofNat 32 (versionCode v) }.finish

end Sys2Proof.Machine
end

