-- ==== Sys2Proof/Machine/Ecc.lean ====
section
/-! DEFINITION. The error-correction unit (43_ecc.md): the Reed-Solomon remainder, the block split and
interleave, and the commands RSREM and AUGMENT. -/

namespace Sys2Proof.Machine

/-! ## The remainder -/

/-- The bytes of `add` are XORed into the first bytes of `r`. -/
def xorPrefix : List Byte → List Byte → List Byte
  | r :: rs, a :: as => (r ^^^ a) :: xorPrefix rs as
  | rs, [] => rs
  | [], _ :: _ => []

/-- The generator scaled by α^q: `EXP[(q + g[j]) % 255]` for every j (R116). -/
def scaledGen (t : GfTables) (q : Nat) (g : List Byte) : List Byte :=
  g.map fun x => t.expAt ((q + x.toNat) % 255)

/-- `n` steps of the long division on the running remainder, whose first byte is the leading coefficient:
if its logarithm is defined, the scaled generator is XORed into the bytes after it (R116). -/
def divSteps (t : GfTables) (g : List Byte) : Nat → List Byte → List Byte
  | n + 1, r :: rest =>
      let q := t.logAt r
      divSteps t g n (if q = 0xFF then rest else xorPrefix rest (scaledGen t q.toNat g))
  | _, rest => rest

/-- `rem(blk, K)` (R116). -/
def remainder (t : GfTables) (k : Nat) (blk : List Byte) : List Byte :=
  divSteps t (t.genAt k) blk.length (blk ++ List.replicate k 0)

/-! ## Blocks and interleave -/

/-- `s`, the short block size (R118). -/
def shortSize (d b : Nat) : Nat := d / b

/-- The pivot: blocks before it are short (R118). -/
def pivotOf (d b : Nat) : Nat := b - d % b

/-- `size(j)` (R118). -/
def blockSize (d b j : Nat) : Nat := shortSize d b + (if pivotOf d b ≤ j then 1 else 0)

/-- `start(j)` (R118). -/
def blockStart (d b j : Nat) : Nat := j * shortSize d b + (j - pivotOf d b)

/-- `block(j)` (R118). -/
def blockOf (cw : List Byte) (b j : Nat) : List Byte :=
  (cw.drop (blockStart cw.length b j)).take (blockSize cw.length b j)

/-- The blocks in order. -/
def blocksOf (cw : List Byte) (b : Nat) : List (List Byte) := (List.range b).map (blockOf cw b)

/-- The first `n` columns of some rows, column by column. -/
def columns (n : Nat) (rows : List (List Byte)) : List Byte :=
  (List.range n).flatMap fun i => rows.map fun row => row.getD i 0

/-- The final codeword order: short columns, the trailing bytes of the longer blocks, remainder columns (R119). -/
def interleave (t : GfTables) (cw : List Byte) (b k : Nat) : List Byte :=
  let blocks := blocksOf cw b
  let s := shortSize cw.length b
  columns s blocks ++
    (blocks.drop (pivotOf cw.length b)).map (fun blk => blk.getD s 0) ++
    columns k (blocks.map (remainder t k))

/-- ILB[0 .. T-1] takes the interleaved codewords of CWB[0 .. D-1] (R121, R151). -/
def State.augmentInto (s : State) (v : Nat) (e : Level) : State :=
  let d := dataCodewords v e
  let out := interleave s.gf (s.readBytes cwbBase d) (blockCount v e) (blockDegree v e)
  { s.needTables.drew d with mem := s.mem.writeBytes ilbBase out }

/-! ## The commands -/

/-- RSREM: the remainder of CWB[st .. st+L-1] for degree K goes to ECCB[0 .. K-1] (R120). -/
def execRsrem (s : State) : Host.Outcome State Fault Refusal :=
  let st := s.remStart
  let l := s.remLen
  let k := s.remDegree
  if st ≤ 4095 ∧ s.remTop = 0 ∧ 1 ≤ k ∧ k ≤ 30 ∧ st + l ≤ cwbSize then
    let blk := s.readBytes (cwbBase + st) l
    .next { s.needTables.drew l with
      mem := s.mem.writeBytes eccbBase (remainder s.gf k blk)
      res0 := BitVec.ofNat 32 k }.finish
  else .next (s.raise .operandRange)

/-- AUGMENT: the interleaved codewords of CWB go to ILB (R121). -/
def execAugment (ecc : BitVec 3) (ver : BitVec 6) (s : State) : Host.Outcome State Fault Refusal :=
  match levelOf ecc with
  | none => .next (s.raise .invalidECCLevel)
  | some e =>
  match versionOf ver with
  | none => .next (s.raise .invalidVersion)
  | some v =>
    let d := dataCodewords v e
    let b := blockCount v e
    let k := blockDegree v e
    .next { s.augmentInto v e with
      res0 := BitVec.ofNat 32 (d + b * k)
      res1 := BitVec.ofNat 32 b
      res2 := BitVec.ofNat 32 k
      res3 := BitVec.ofNat 32 (pivotOf d b) }.finish

end Sys2Proof.Machine
end

