-- ==== Sys2Proof/Machine/Matrix.lean ====
section
/-! DEFINITION. The matrix builder (44_matrix.md): the fixed patterns, the placement scan, and the commands
BUILDBASE and PLACE. -/

namespace Sys2Proof.Machine

/-! ## Fixed patterns -/

/-- What a template of `h` rows and `w` columns at top-left (y, x) writes to cell (r, c): bit j of row i at
column offset j (R123). -/
def blitCell (y x h w : Nat) (rows : List Nat) (r c : Nat) : Option Bool :=
  if y ≤ r ∧ r < y + h ∧ x ≤ c ∧ c < x + w then some ((rows.getD (r - y) 0).testBit (c - x)) else none

/-- The three finder corners with separators and format areas, of side `n` (R124). -/
def topLeftRows : List Nat := [0x07F, 0x041, 0x05D, 0x05D, 0x05D, 0x041, 0x17F, 0x000, 0x040]
def bottomLeftRows : List Nat := [0x100, 0x07F, 0x041, 0x05D, 0x05D, 0x05D, 0x041, 0x07F]
def topRightRows : List Nat := [0xFE, 0x82, 0xBA, 0xBA, 0xBA, 0x82, 0xFE, 0x00, 0x00]

def cornerCell (n r c : Nat) : Option Bool :=
  (blitCell 0 (n - 8) 9 8 topRightRows r c).or <|
    (blitCell (n - 8) 0 8 9 bottomLeftRows r c).or <|
      blitCell 0 0 9 9 topLeftRows r c

/-- The timing cells of row 6 and column 6, black at even positions (R125). -/
def timingCell (n r c : Nat) : Option Bool :=
  if r = 6 ∧ 9 ≤ c ∧ c ≤ n - 9 then some (decide (c % 2 = 0))
  else if c = 6 ∧ 9 ≤ r ∧ r ≤ n - 9 then some (decide (r % 2 = 0))
  else none

/-- The template of an alignment pattern (R126). -/
def alignRows : List Nat := [0x1F, 0x11, 0x15, 0x11, 0x1F]

/-- The centres of the alignment patterns: every pair of positions but the three at a finder (R126). -/
def alignCentres (v : Nat) : List (Nat × Nat) :=
  let p := alignPositions v
  let m := p.length
  (List.range m).flatMap fun a =>
    (List.range m).filterMap fun b =>
      if (a = 0 ∧ b = 0) ∨ (a = 0 ∧ b = m - 1) ∨ (a = m - 1 ∧ b = 0) then none
      else some (p.getD a 0, p.getD b 0)

/-- The alignment pattern that covers a cell, if any (R126). -/
def alignCell (v r c : Nat) : Option Bool :=
  (alignCentres v).findSome? fun yx => blitCell (yx.1 - 2) (yx.2 - 2) 5 5 alignRows r c

/-- The two version-information blocks of a version above 6 (R127). -/
def versionCell (v r c : Nat) : Option Bool :=
  let n := sideOf v
  if v > 6 then
    if r < 6 ∧ n - 11 ≤ c ∧ c ≤ n - 9 then some ((versionCode v).testBit (3 * r + (c - (n - 11))))
    else if c < 6 ∧ n - 11 ≤ r ∧ r ≤ n - 9 then some ((versionCode v).testBit (3 * c + (r - (n - 11))))
    else none
  else none

/-- The fixed pattern of a cell, the later step of `buildBase` first, `none` where no pattern reserves it (R128). -/
def baseCell (v r c : Nat) : Option Bool :=
  (versionCell v r c).or <| (alignCell v r c).or <|
    (timingCell (sideOf v) r c).or (cornerCell (sideOf v) r c)

/-- `buildBase(v)`: in the square, reserved cells take their pattern and `RSV` 1, the others become unwritten
and `RSV` 0 (R128). MVER and MSTATE become those of the new base (R132). -/
def State.buildBaseInto (s : State) (v : Nat) : State :=
  let n := sideOf v
  { s with
    mem := (s.mem.mapSquare mtxBase n fun r c _ => (baseCell v r c).map cellByte).mapSquare rsvBase n
      fun r c _ => some (cellByte (baseCell v r c).isSome)
    mver := BitVec.ofNat 6 v
    phase := .base }

/-! ## Placement -/

/-- The right columns of the column pairs from `c` leftward, each with its direction (true: upward), column 6
skipped (R129). The fuel bounds the number of pairs. -/
def scanPairs : Nat → Nat → Bool → List (Nat × Bool)
  | 0, _, _ => []
  | fuel + 1, c, up =>
      let c' := if c = 6 then 5 else c
      (c', up) :: (if c' < 2 then [] else scanPairs fuel (c' - 2) (!up))

/-- The cells of one column pair in order, the right one of each row first (R129). -/
def pairCells (n : Nat) (p : Nat × Bool) : List (Nat × Nat) :=
  (List.range n).flatMap fun t =>
    let r := if p.2 then n - 1 - t else t
    [(r, p.1), (r, p.1 - 1)]

/-- `scan(n)`: the non-reserved cells in placement order (R129). -/
def scanCells (n : Nat) (rsv : List (List Bool)) : List (Nat × Nat) :=
  ((scanPairs n (n - 1) true).flatMap (pairCells n)).filter fun rc => !cellAt rsv rc.1 rc.2

/-- The stream bits of some bytes, most significant first (20_memory.md R47). -/
def streamBits (bs : List Byte) : List Bool := bs.flatMap fun b => putBits8 b
where
  /-- The eight bits of a byte, bit 7 first. -/
  putBits8 (b : Byte) : List Bool := (List.range 8).map fun i => b.getLsbD (7 - i)

/-- The scanned cells with their bits: stream bit k at the k-th cell, 0 beyond the stream (R130). -/
def placedBits (cells : List (Nat × Nat)) (bits : List Bool) : List (Nat × Byte) :=
  cells.zipWith (fun rc b => (cellAddr mtxBase rc.1 rc.2, cellByte b))
    (bits ++ List.replicate (cells.length - bits.length) false)

/-- PLACE's work: every non-reserved cell of the square takes its stream bit of ILB, and the matrix is PLACED
(R133). -/
def State.placeInto (s : State) : State :=
  let t := totalCodewords s.mver.toNat
  let placed := placedBits (scanCells s.side s.reserved) (streamBits (s.readBytes ilbBase t))
  { s.drew t with
    mem := s.mem.mapSquare mtxBase s.side fun r c old =>
      match placed.lookup (cellAddr mtxBase r c) with
      | some b => some b
      | none => old
    phase := .placed }

/-! ## The commands -/

/-- BUILDBASE: the base matrix of a version (R132). -/
def execBuildbase (ver : BitVec 6) (s : State) : Host.Outcome State Fault Refusal :=
  match versionOf ver with
  | none => .next (s.raise .invalidVersion)
  | some v =>
    .next { s.buildBaseInto v with
      res0 := BitVec.ofNat 32 (sideOf v)
      res1 := BitVec.ofNat 32 (rawModules v) }.finish

/-- PLACE: the codewords of ILB go to the matrix; RES0 counts the cells, RES1 the bits taken (R133). -/
def execPlace (s : State) : Host.Outcome State Fault Refusal :=
  if s.hasBase then
    let k := (scanCells s.side s.reserved).length
    .next { s.placeInto with
      res0 := BitVec.ofNat 32 k
      res1 := BitVec.ofNat 32 (min k (8 * totalCodewords s.mver.toNat)) }.finish
  else .next (s.raise .sequenceError)

end Sys2Proof.Machine
end

