-- ==== Sys2Proof/Machine/Mask.lean ====
section
/-! DEFINITION. The mask unit (45_mask_score.md): mask functions, format information, the four penalties,
mask selection, and the commands APPLYMASK, WRITEFMT, SCORE and SELECT. -/

namespace Sys2Proof.Machine

/-! ## Masks -/

/-- `MASKFUNCS[m](i, j)` at row i, column j (R134). -/
def maskAt (m i j : Nat) : Bool :=
  match m with
  | 0 => (i + j) % 2 == 0
  | 1 => i % 2 == 0
  | 2 => j % 3 == 0
  | 3 => (i + j) % 3 == 0
  | 4 => (i / 2 + j / 3) % 2 == 0
  | 5 => i * j % 2 + i * j % 3 == 0
  | 6 => (i * j % 2 + i * j % 3) % 2 == 0
  | 7 => ((i + j) % 2 + i * j % 3) % 2 == 0
  | _ => false

/-- `applyMask(m)` on a square: each non-reserved cell is XORed with the mask (R135). -/
def maskGrid (m : Nat) (rsv g : List (List Bool)) : List (List Bool) :=
  g.mapIdx fun i row => row.mapIdx fun j x => if !cellAt rsv i j && maskAt m i j then !x else x

/-- `applyMask(m)` on MTX (R135). An unwritten cell, which no reachable state holds here, stays unwritten (log 9). -/
def State.maskInto (s : State) (m : Nat) : State :=
  let rsv := s.reserved
  { s with mem := s.mem.mapSquare mtxBase s.side fun i j old =>
      if !cellAt rsv i j && maskAt m i j then old.map (· ^^^ 1) else old }

/-! ## Format information -/

/-- The rows of the column-8 strip and the columns of the row-8 strip, bit 0 first (R136). -/
def formatRows (n : Nat) : List Nat :=
  [0, 1, 2, 3, 4, 5, 7, 8, n - 7, n - 6, n - 5, n - 4, n - 3, n - 2, n - 1]
def formatCols (n : Nat) : List Nat :=
  [n - 1, n - 2, n - 3, n - 4, n - 5, n - 6, n - 7, n - 8, 7, 5, 4, 3, 2, 1, 0]

/-- The format bit of cell (r, c), if it is one of the 30 format cells (R136). -/
def formatCell (n code r c : Nat) : Option Bool :=
  if c = 8 ∧ r ∈ formatRows n then some (code.testBit ((formatRows n).idxOf r))
  else if r = 8 ∧ c ∈ formatCols n then some (code.testBit ((formatCols n).idxOf c))
  else none

/-- `writeFmt` on a square (R136). -/
def formatGrid (n code : Nat) (g : List (List Bool)) : List (List Bool) :=
  g.mapIdx fun r row => row.mapIdx fun c x => (formatCell n code r c).getD x

/-- `writeFmt(e, m)` on MTX (R136). -/
def State.formatInto (s : State) (e : Level) (m : Nat) : State :=
  { s with mem := s.mem.mapSquare mtxBase s.side fun r c old =>
      ((formatCell s.side (formatCode e m) r c).map cellByte).or old }

/-! ## The score -/

/-- Run lengths after the first entry: `col` is the colour of the open run and `k` its length so far (R137). -/
def runsFrom : Bool → Nat → List Bool → List Nat
  | true, k, [] => [k, 0]
  | false, k, [] => [k]
  | col, k, x :: xs => if x = col then runsFrom col (k + 1) xs else k :: runsFrom x 1 xs

/-- The run list of a line: a white run of length 0, then black and white runs in turn (R137). -/
def runs : List Bool → List Nat
  | [] => [0]
  | x :: xs => 0 :: runsFrom true 0 (x :: xs)

/-- Penalty (a) of one line (R138). -/
def linePenaltyA (g : List Nat) : Nat := (g.map fun x => if x ≥ 5 then 3 + (x - 5) else 0).sum

/-- The finder-like check at index `t` of a run list (R139). -/
def finderLike (g : List Nat) (t : Nat) : Bool :=
  let at' (i : Nat) := g.getD i 0
  let p := at' t
  at' (t - 1) == p && at' (t - 2) == 3 * p && at' (t - 3) == p && at' (t - 4) == p &&
    (decide (at' (t - 5) ≥ 4 * p) || decide (at' (t + 1) ≥ 4 * p))

/-- Penalty (c) of one line: 40 for every t in 5, 7, 9, ... that passes the check (R139). -/
def linePenaltyC (g : List Nat) : Nat :=
  40 * ((List.range g.length).filter fun t => decide (5 ≤ t) && t % 2 == 1 && finderLike g t).length

/-- Penalty (b) of two neighbouring rows: 3 for every 2 by 2 block of one colour (R140). -/
def pairPenaltyB : List Bool → List Bool → Nat
  | a :: b :: r, c :: d :: r' =>
      (if a = b ∧ a = c ∧ a = d then 3 else 0) + pairPenaltyB (b :: r) (d :: r')
  | _, _ => 0

/-- Penalty (b) (R140). -/
def penaltyB : List (List Bool) → Nat
  | r :: r' :: rest => pairPenaltyB r r' + penaltyB (r' :: rest)
  | _ => 0

/-- The columns of a square of side `n`. -/
def transposed (n : Nat) (g : List (List Bool)) : List (List Bool) :=
  (List.range n).map fun j => g.map fun row => row.getD j false

/-- The run lists of all rows and columns. -/
def lineRuns (n : Nat) (g : List (List Bool)) : List (List Nat) := (g ++ transposed n g).map runs

/-- Penalty (a) (R138). -/
def penaltyA (n : Nat) (g : List (List Bool)) : Nat := ((lineRuns n g).map linePenaltyA).sum

/-- Penalty (c) (R139). -/
def penaltyC (n : Nat) (g : List (List Bool)) : Nat := ((lineRuns n g).map linePenaltyC).sum

/-- The black cells of a square. -/
def blackCount (g : List (List Bool)) : Nat := (g.map fun row => row.countP id).sum

/-- Penalty (d) of `bk` black cells of `nn`, in exact integers: `10 * (|20*Bk - 10*N| // N)` (R141). -/
def darkPenalty (bk nn : Nat) : Nat := 10 * (((20 * bk : Int) - 10 * nn).natAbs / nn)

/-- Penalty (d) (R141). -/
def penaltyD (n : Nat) (g : List (List Bool)) : Nat := darkPenalty (blackCount g) (n * n)

/-- `score()`: the four penalties (R142). -/
def scoreOf (n : Nat) (g : List (List Bool)) : Nat :=
  penaltyA n g + penaltyB g + penaltyC n g + penaltyD n g

/-! ## Selection -/

/-- The score of the trial of mask `m`: mask and format information applied to the square (R143). -/
def trialScore (n : Nat) (e : Level) (rsv g : List (List Bool)) (m : Nat) : Nat :=
  scoreOf n (formatGrid n (formatCode e m) (maskGrid m rsv g))

/-- The least mask with the least score: "first minimum wins ties" (R143). -/
def bestMask (scores : Vector Word 8) : Nat :=
  (List.range 8).foldl
    (fun best m => if (scores.toList.getD m 0).toNat < (scores.toList.getD best 0).toNat then m else best) 0

/-- The scoreboard of an automatic selection (R143). -/
def trialScores (n : Nat) (e : Level) (rsv g : List (List Bool)) : Vector Word 8 :=
  let sc (m : Nat) : Word := BitVec.ofNat 32 (trialScore n e rsv g m)
  #v[sc 0, sc 1, sc 2, sc 3, sc 4, sc 5, sc 6, sc 7]

/-- A forced selection: mask and format information committed, the scoreboard left alone, MSTATE FINAL
(R144, R148). RES0 is the mask, RES1 0xFFFFFFFF. -/
def State.forceMask (s : State) (e : Level) (m : Nat) : State :=
  { (s.maskInto m).formatInto e m with
    phase := .final
    res0 := BitVec.ofNat 32 m
    res1 := 0xFFFFFFFF }

/-- An automatic selection: eight trials fill the scoreboard, the best mask and its format information are
committed, MSTATE FINAL (R143, R148). RES0 is the mask, RES1 its score. -/
def State.autoMask (s : State) (e : Level) : State :=
  let scores := trialScores s.side e s.reserved s.matrix
  let best := bestMask scores
  { ((s.drew (s.side * s.side)).maskInto best).formatInto e best with
    sb := scores
    phase := .final
    res0 := BitVec.ofNat 32 best
    res1 := scores.toList.getD best 0 }

/-- Mask selection, as the MASK field says (R148, R151). -/
def State.selectMask (s : State) (e : Level) (c : Choice Nat) : State :=
  match c with
  | .auto => s.autoMask e
  | .fixed m => s.forceMask e m

/-! ## The commands -/

/-- APPLYMASK (R145). -/
def execApplymask (mask : BitVec 4) (s : State) : Host.Outcome State Fault Refusal :=
  if s.hasData then
    match maskOf mask with
    | none => .next (s.raise .invalidMask)
    | some m => .next (s.maskInto m).finish
  else .next (s.raise .sequenceError)

/-- WRITEFMT: the format information of a level and mask; RES0 is its code (R146). -/
def execWritefmt (ecc : BitVec 3) (mask : BitVec 4) (s : State) : Host.Outcome State Fault Refusal :=
  if s.hasBase then
    match levelOf ecc with
    | none => .next (s.raise .invalidECCLevel)
    | some e =>
    match maskOf mask with
    | none => .next (s.raise .invalidMask)
    | some m =>
      .next { s.formatInto e m with res0 := BitVec.ofNat 32 (formatCode e m) }.finish
  else .next (s.raise .sequenceError)

/-- SCORE: the penalty of the symbol and its four parts (R147). -/
def execScore (s : State) : Host.Outcome State Fault Refusal :=
  if s.hasData then
    let n := s.side
    let g := s.matrix
    .next { s.drew (n * n) with
      res0 := BitVec.ofNat 32 (scoreOf n g)
      res1 := BitVec.ofNat 32 (penaltyA n g)
      res2 := BitVec.ofNat 32 (penaltyB g)
      res3 := BitVec.ofNat 32 (penaltyC n g)
      res4 := BitVec.ofNat 32 (penaltyD n g) }.finish
  else .next (s.raise .sequenceError)

/-- SELECT: a mask chosen or forced, and committed (R148). -/
def execSelect (ecc : BitVec 3) (mask : BitVec 4) (s : State) : Host.Outcome State Fault Refusal :=
  if s.phase = .placed then
    match levelOf ecc with
    | none => .next (s.raise .invalidECCLevel)
    | some e =>
    match maskChoice mask with
    | none => .next (s.raise .invalidMask)
    | some c => .next (s.selectMask e c).finish
  else .next (s.raise .sequenceError)

end Sys2Proof.Machine
end

