-- ==== Sys2Proof/Machine/Packer.lean ====
section
/-! DEFINITION. The packer (42_packer.md): the input alphabets, validation, folding and mode detection, the
codeword bitstream, and the commands VALIDATE and PACK. -/

namespace Sys2Proof.Machine

/-! ## Alphabets -/

/-- The byte classes of R103. -/
def isDigit (b : Byte) : Bool := decide (0x30 ≤ b.toNat ∧ b.toNat ≤ 0x39)
def isUpper (b : Byte) : Bool := decide (0x41 ≤ b.toNat ∧ b.toNat ≤ 0x5A)
def isLower (b : Byte) : Bool := decide (0x61 ≤ b.toNat ∧ b.toNat ≤ 0x7A)

/-- Space and `$%*+-./:`, in the order of their values (R103, R104). -/
def alnumSpecials : List Byte := [0x20, 0x24, 0x25, 0x2A, 0x2B, 0x2D, 0x2E, 0x2F, 0x3A]

/-- The 45-byte alphanumeric set (R103). -/
def isAlnum (b : Byte) : Bool := isDigit b || isUpper b || alnumSpecials.contains b

/-- `aval(b)`: 0 to 9 for digits, 10 to 35 for letters, 36 to 44 for the specials (R104). -/
def alnumValue (b : Byte) : Nat :=
  if isDigit b then b.toNat - 0x30
  else if isUpper b then b.toNat - 0x41 + 10
  else 36 + alnumSpecials.idxOf b

/-- `valid(mode, in, fold)` (R105). -/
def validFor (mo : Mode) (data : List Byte) (f : Bool) : Bool :=
  match mo with
  | .numeric => data.all isDigit
  | .alphanumeric => data.all fun b => isAlnum b || (f && isLower b)
  | .octet => true

/-- The upper-case letter of a lower-case one (R105). -/
def foldByte (b : Byte) : Byte := if isLower b then b - 0x20 else b

/-- `fold(mode, in, f)` (R105). -/
def foldFor (mo : Mode) (data : List Byte) (f : Bool) : List Byte :=
  match mo, f with
  | .alphanumeric, true => data.map foldByte
  | _, _ => data

/-- `detect(in)` (R106). -/
def detectMode (data : List Byte) : Mode :=
  if data.all isDigit then .numeric
  else if data.all isAlnum then .alphanumeric
  else .octet

/-- The mode a command works in: its own, or the detected one (R114, R151). -/
def resolveMode (c : Choice Mode) (data : List Byte) : Mode :=
  match c with
  | .auto => detectMode data
  | .fixed mo => mo

/-! ## The bitstream -/

/-- `put(x, w)`: the `w` low bits of `x`, most significant first (00_scope.md R15). -/
def putBits (x w : Nat) : List Bool := (List.range w).map fun i => x.testBit (w - 1 - i)

/-- The value of a digit (R109). -/
def digitValue (b : Byte) : Nat := b.toNat - 0x30

/-- Groups of three digits in 10 bits, a last group of two in 7 or of one in 4 (R109). -/
def numericBits : List Byte → List Bool
  | a :: b :: c :: rest =>
      putBits (100 * digitValue a + 10 * digitValue b + digitValue c) 10 ++ numericBits rest
  | [a, b] => putBits (10 * digitValue a + digitValue b) 7
  | [a] => putBits (digitValue a) 4
  | [] => []

/-- Pairs of characters in 11 bits, a last one in 6 (R110). -/
def alnumBits : List Byte → List Bool
  | a :: b :: rest => putBits (alnumValue a * 45 + alnumValue b) 11 ++ alnumBits rest
  | [a] => putBits (alnumValue a) 6
  | [] => []

/-- "each byte as 8 bits" (R111). -/
def octetBits (data : List Byte) : List Bool := data.flatMap fun b => putBits b.toNat 8

def payloadBits : Mode → List Byte → List Bool
  | .numeric => numericBits
  | .alphanumeric => alnumBits
  | .octet => octetBits

/-- `serialize(v, mode, in)`: mode indicator, length, payload, before the terminator (R108). -/
def serialize (v : Nat) (mo : Mode) (data : List Byte) : List Bool :=
  putBits (modeCode mo) 4 ++ putBits data.length (lengthIndicatorBits v mo) ++ payloadBits mo data

/-- Zero bits up to the byte boundary (R112). -/
def zeroFill (bits : List Bool) : List Bool :=
  bits ++ List.replicate ((8 - bits.length % 8) % 8) false

/-- The byte of eight stream bits, the first in bit 7 (20_memory.md R47). -/
def byteOfBits (bits : List Bool) : Byte :=
  BitVec.ofNat 8 (bits.foldl (fun x b => 2 * x + b.toNat) 0)

/-- The bytes of a stream whose length is a multiple of 8 (R47). -/
def bytesOfBits : List Bool → List Byte
  | b7 :: b6 :: b5 :: b4 :: b3 :: b2 :: b1 :: b0 :: rest =>
      byteOfBits [b7, b6, b5, b4, b3, b2, b1, b0] :: bytesOfBits rest
  | _ => []

/-- `n` pad bytes: 0xEC, 0x11, 0xEC, ... (R112). -/
def padBytes (n : Nat) : List Byte := (List.range n).map fun p => if p % 2 = 0 then 0xEC else 0x11

/-- `finish(S, Dt)`: terminator, truncation, zero fill and pad bytes (R112). -/
def finishStream (bits : List Bool) (dt : Nat) : List Byte :=
  let out := bytesOfBits (zeroFill ((bits ++ putBits 0 4).take (8 * dt)))
  out ++ padBytes (dt - out.length)

/-- The codewords of the data: what PACK and GENERATE write to CWB (R115, R151). -/
def packedCodewords (v : Nat) (e : Level) (mo : Mode) (data : List Byte) : List Byte :=
  finishStream (serialize v mo data) (dataCodewords v e)

/-- CWB[0 .. D-1] takes the codewords of the data (R115, R151). -/
def State.packInto (s : State) (v : Nat) (e : Level) (mo : Mode) (data : List Byte) : State :=
  { s with mem := s.mem.writeBytes cwbBase (packedCodewords v e mo data) }

/-! ## The commands -/

/-- VALIDATE: the resolved mode and length; accepted alphanumeric input is folded in IBUF (R114). -/
def execValidate (mode : BitVec 4) (s : State) : Host.Outcome State Fault Refusal :=
  match modeChoice mode with
  | none => .next (s.raise .invalidMode)
  | some c =>
  if s.len.toNat > ibufSize then .next (s.raise .operandRange) else
    let data := s.inputBytes
    let s1 := s.drew s.len.toNat
    let mo := resolveMode c data
    if validFor mo data s.sampledFold = false then .next (s1.raise .invalidDataFormat) else
      let folded := (s.mem.slice ibufBase s.len.toNat).zipWith
        (fun old b => if isLower b then some (b - 0x20) else old) data
      let mem1 := if mo = .alphanumeric ∧ s.sampledFold = true then
        s.mem.setRange ibufBase folded else s.mem
      .next { s1 with
        mem := mem1
        res0 := BitVec.ofNat 32 (modeCode mo)
        res1 := s.len.setWidth 32 }.finish

/-- PACK: the codewords of valid data that fit the version (R115). -/
def execPack (ecc : BitVec 3) (ver : BitVec 6) (mode : BitVec 4) (s : State) :
    Host.Outcome State Fault Refusal :=
  match modeOf mode with
  | none => .next (s.raise .invalidMode)
  | some mo =>
  if s.len.toNat > ibufSize then .next (s.raise .operandRange) else
    let data := s.inputBytes
    let s1 := s.drew s.len.toNat
    if validFor mo data false = false then .next (s1.raise .invalidDataFormat) else
    match levelOf ecc with
    | none => .next (s1.raise .invalidECCLevel)
    | some e =>
    match versionOf ver with
    | none => .next (s1.raise .invalidVersion)
    | some v =>
    if s.len.toNat > maxDataLength v mo e then .next (s1.raise .dataTooLarge) else
      .next { s1.packInto v e mo data with
        res0 := BitVec.ofNat 32 (dataCodewords v e)
        res1 := BitVec.ofNat 32 (serialize v mo data).length }.finish

end Sys2Proof.Machine
end

