-- ==== Sys2Proof/Machine/Generate.lean ====
section
/-! DEFINITION. NOP and GENERATE (46_generate.md). GENERATE is the pipeline of the other units' operations
in the source's component order (R151, R152). -/

namespace Sys2Proof.Machine

/-- NOP completes (R149). -/
def execNop (s : State) : Host.Outcome State Fault Refusal := .next s.finish

/-- The version GENERATE works in: its own, or the least one that fits; else the error, too large before or
beyond range as the field says (R151). -/
def resolveVersion (ver : BitVec 6) (len : Nat) (mo : Mode) (e : Level) : Except ErrCode Nat :=
  match versionChoice ver with
  | none => .error .invalidVersion
  | some .auto =>
    match autoVersion len mo e with
    | none => .error .dataTooLarge
    | some v => .ok v
  | some (.fixed v) => if len > maxDataLength v mo e then .error .dataTooLarge else .ok v

/-- The pipeline of R151 after its checks: tables, codewords, interleave, base, placement, mask. -/
def State.generateInto (s : State) (v : Nat) (e : Level) (mo : Mode) (data : List Byte) (c : Choice Nat) :
    State :=
  (((((s.needTables).packInto v e mo data).augmentInto v e).buildBaseInto v).placeInto).selectMask e c

/-- GENERATE (R151). The mask, score, version, mode and codeword count go to RES0 to RES4. -/
def execGenerate (ecc : BitVec 3) (ver : BitVec 6) (mode mask : BitVec 4) (s : State) :
    Host.Outcome State Fault Refusal :=
  match modeChoice mode with
  | none => .next (s.raise .invalidMode)
  | some cm =>
  if s.len.toNat > ibufSize then .next (s.raise .operandRange) else
    let data := s.inputBytes
    let s1 := s.drew s.len.toNat
    let mo := resolveMode cm data
    if validFor mo data s.sampledFold = false then .next (s1.raise .invalidDataFormat) else
    match levelOf ecc with
    | none => .next (s1.raise .invalidECCLevel)
    | some e =>
    match resolveVersion ver s.len.toNat mo e with
    | .error err => .next (s1.raise err)
    | .ok v =>
    match maskChoice mask with
    | none => .next (s1.raise .invalidMask)
    | some c =>
      .next { s1.generateInto v e mo (foldFor mo data s.sampledFold) c with
        res2 := BitVec.ofNat 32 v
        res3 := BitVec.ofNat 32 (modeCode mo)
        res4 := BitVec.ofNat 32 (totalCodewords v) }.finish

end Sys2Proof.Machine
end

