-- ==== Sys2Proof/Machine/Dispatch.lean ====
section
/-! DEFINITION. One arm per command of 30_encoding.md R70: what the engine does from its turn to completion. -/

namespace Sys2Proof.Machine

def exec (i : Instr) (s : State) : Host.Outcome State Fault Refusal :=
  match i with
  | .nop => Sys2Proof.Machine.execNop s
  | .tblinit => Sys2Proof.Machine.execTblinit s
  | .gfmul => Sys2Proof.Machine.execGfmul s
  | .gfexp => Sys2Proof.Machine.execGfexp s
  | .gflog => Sys2Proof.Machine.execGflog s
  | .genrd => Sys2Proof.Machine.execGenrd s
  | .capq ecc ver mode => Sys2Proof.Machine.execCapq ecc ver mode s
  | .bchq ecc ver mask => Sys2Proof.Machine.execBchq ecc ver mask s
  | .validate mode => Sys2Proof.Machine.execValidate mode s
  | .pack ecc ver mode => Sys2Proof.Machine.execPack ecc ver mode s
  | .rsrem => Sys2Proof.Machine.execRsrem s
  | .augment ecc ver => Sys2Proof.Machine.execAugment ecc ver s
  | .buildbase ver => Sys2Proof.Machine.execBuildbase ver s
  | .place => Sys2Proof.Machine.execPlace s
  | .applymask mask => Sys2Proof.Machine.execApplymask mask s
  | .writefmt ecc mask => Sys2Proof.Machine.execWritefmt ecc mask s
  | .score => Sys2Proof.Machine.execScore s
  | .select ecc mask => Sys2Proof.Machine.execSelect ecc mask s
  | .generate ecc ver mode mask => Sys2Proof.Machine.execGenerate ecc ver mode mask s

end Sys2Proof.Machine
end

