-- ==== Sys2Proof/Machine/Engine.lean ====
section
/-! DEFINITION. The turns of the machine (10_state.md R19, R20): the engine runs the command in flight, the
host makes an access, the platform moves the reset line. -/

namespace Sys2Proof.Machine

/-- The engine's turn: a command in flight runs to completion (60_exceptions.md R160, R172); a word that is no
command completes with IllegalCommand (30_encoding.md R72, log 11). That STATUS.TBLV rises here, with completion, and not inside
the BUSY window is a DESIGN CHOICE (log 23). With no command in flight, or while reset
is asserted, the engine does nothing (R20, R169). -/
def State.engineTurn (s : State) : Host.Outcome State Fault Refusal :=
  if s.inReset || !s.busy then .next s
  else
    match decodeWord s.cmd with
    | .ok i => exec i s
    | .error _ => .next (s.raise .illegalCommand)

/-- One turn. -/
def State.takeTurn (s : State) (t : Turn) : Host.Outcome State Fault Refusal :=
  match t with
  | .engine => s.engineTurn
  | .host a => .next (s.hostAccess a)
  | .resetAssert => .next s.assertReset
  | .resetRelease => .next s.releaseReset

/-- The next turn is taken from `turns`; when none is left the engine has its turn, so that a command in
flight completes (R172), and an idle machine waits (70_reset_and_hazards.md R169). -/
def State.advance (s : State) : Host.Outcome State Fault Refusal :=
  match s.turns with
  | [] => s.engineTurn
  | t :: rest => { s with turns := rest }.takeTurn t

/-- A state whose very next step runs the command word `w`: the word is accepted (60_exceptions.md R159), no
reset is asserted and the engine has the next turn (log 3). -/
def State.loadWord (s : State) (w : Word) : State :=
  { s.accept w with inReset := false, turns := .engine :: s.turns }

end Sys2Proof.Machine
end

