-- ==== Sys2Proof/Machine/Assembler.lean ====
section
/-! DEFINITION. The command assembler (30_encoding.md R73): from `MNEMONIC key=value, ...` or `.cmd 0x...`
to a command word. Text is a list of characters; blanks around words are ignored (log 18). -/

namespace Sys2Proof.Machine

/-- The four keys. -/
inductive AsmKey where
  | ecc | ver | mode | mask
  deriving DecidableEq, Repr

/-- A `key=value` operand. -/
inductive AsmOperand where
  | ecc (e : Level)
  | ver (v : Choice Nat)
  | mode (mo : Choice Mode)
  | mask (m : Choice Nat)
  deriving DecidableEq, Repr

/-- Why a line does not assemble. -/
inductive AsmError where
  /-- Not a mnemonic of R70. -/
  | unknownMnemonic
  /-- Not `key=value` with a key and value of R73. -/
  | badOperand
  /-- "each key at most once". -/
  | repeatedKey
  /-- "A key the opcode does not read is an assembly error." -/
  | unreadKey
  /-- "Where the opcode refuses the default ... the key is mandatory." -/
  | missingKey
  deriving DecidableEq, Repr

def AsmOperand.key : AsmOperand → AsmKey
  | .ecc _ => .ecc
  | .ver _ => .ver
  | .mode _ => .mode
  | .mask _ => .mask

/-! ## Operands to words -/

/-- The fields each opcode reads (R71). -/
def keysRead (op : BitVec 5) : List AsmKey :=
  match op.toNat with
  | 0x06 => [.ecc, .ver, .mode]
  | 0x07 => [.ecc, .ver, .mask]
  | 0x08 => [.mode]
  | 0x09 => [.ecc, .ver, .mode]
  | 0x0B => [.ecc, .ver]
  | 0x0C => [.ver]
  | 0x0E => [.mask]
  | 0x0F => [.ecc, .mask]
  | 0x11 => [.ecc, .mask]
  | 0x12 => [.ecc, .ver, .mode, .mask]
  | _ => []

/-- The opcode accepts the key's default, level L or an automatic choice (R71, R73). -/
def defaultAccepted (op : BitVec 5) (k : AsmKey) : Bool :=
  match k with
  | .ecc => true
  | .ver => op == 0x12
  | .mode => op == 0x08 || op == 0x12
  | .mask => op == 0x11 || op == 0x12

/-- The field values of a line; a field starts at 0, its value where the opcode does not read it (R73). -/
structure AsmFields where
  ecc : BitVec 3
  ver : BitVec 6
  mode : BitVec 4
  mask : BitVec 4
  deriving DecidableEq, Repr

/-- An operand enters its field (R73). -/
def AsmFields.put (f : AsmFields) : AsmOperand → AsmFields
  | .ecc e => { f with ecc := BitVec.ofNat 3 (levelCode e) }
  | .ver .auto => { f with ver := 0 }
  | .ver (.fixed v) => { f with ver := BitVec.ofNat 6 v }
  | .mode .auto => { f with mode := 0 }
  | .mode (.fixed mo) => { f with mode := BitVec.ofNat 4 (modeCode mo) }
  | .mask .auto => { f with mask := 15 }
  | .mask (.fixed m) => { f with mask := BitVec.ofNat 4 m }

/-- "An omitted key takes the source's default": level L, version, mode and mask auto (R73). -/
def defaultOperand : AsmKey → AsmOperand
  | .ecc => .ecc .l
  | .ver => .ver .auto
  | .mode => .mode .auto
  | .mask => .mask .auto

/-- The operand a key takes: the written one, else its default, else an error (R73). -/
def operandFor (op : BitVec 5) (ops : List AsmOperand) (k : AsmKey) : Except AsmError AsmOperand :=
  match ops.find? (fun o => o.key == k) with
  | some o => .ok o
  | none => if defaultAccepted op k then .ok (defaultOperand k) else .error .missingKey

/-- The word of an opcode with its operands (R73). -/
def assembleOperands (op : BitVec 5) (ops : List AsmOperand) : Except AsmError Word :=
  if !(ops.map AsmOperand.key).Nodup then .error .repeatedKey
  else if ops.any fun o => !(keysRead op).contains o.key then .error .unreadKey
  else
    match (keysRead op).mapM (operandFor op ops) with
    | .error e => .error e
    | .ok all =>
      let f := all.foldl AsmFields.put { ecc := 0, ver := 0, mode := 0, mask := 0 }
      .ok (wordOfFields op f.ecc f.ver f.mode f.mask)

/-! ## Text -/

/-- The opcode of a mnemonic (R70). -/
def opcodeOf (name : List Char) : Option (BitVec 5) :=
  if name = ['N', 'O', 'P'] then some 0x00
  else if name = ['T', 'B', 'L', 'I', 'N', 'I', 'T'] then some 0x01
  else if name = ['G', 'F', 'M', 'U', 'L'] then some 0x02
  else if name = ['G', 'F', 'E', 'X', 'P'] then some 0x03
  else if name = ['G', 'F', 'L', 'O', 'G'] then some 0x04
  else if name = ['G', 'E', 'N', 'R', 'D'] then some 0x05
  else if name = ['C', 'A', 'P', 'Q'] then some 0x06
  else if name = ['B', 'C', 'H', 'Q'] then some 0x07
  else if name = ['V', 'A', 'L', 'I', 'D', 'A', 'T', 'E'] then some 0x08
  else if name = ['P', 'A', 'C', 'K'] then some 0x09
  else if name = ['R', 'S', 'R', 'E', 'M'] then some 0x0A
  else if name = ['A', 'U', 'G', 'M', 'E', 'N', 'T'] then some 0x0B
  else if name = ['B', 'U', 'I', 'L', 'D', 'B', 'A', 'S', 'E'] then some 0x0C
  else if name = ['P', 'L', 'A', 'C', 'E'] then some 0x0D
  else if name = ['A', 'P', 'P', 'L', 'Y', 'M', 'A', 'S', 'K'] then some 0x0E
  else if name = ['W', 'R', 'I', 'T', 'E', 'F', 'M', 'T'] then some 0x0F
  else if name = ['S', 'C', 'O', 'R', 'E'] then some 0x10
  else if name = ['S', 'E', 'L', 'E', 'C', 'T'] then some 0x11
  else if name = ['G', 'E', 'N', 'E', 'R', 'A', 'T', 'E'] then some 0x12
  else none

/-- The text without the blanks around it. -/
def trimBlanks (cs : List Char) : List Char :=
  ((cs.dropWhile (· == ' ')).reverse.dropWhile (· == ' ')).reverse

/-- The pieces of a text between separators. -/
def splitAtChar (sep : Char) : List Char → List (List Char)
  | [] => [[]]
  | c :: cs =>
    if c = sep then [] :: splitAtChar sep cs
    else
      match splitAtChar sep cs with
      | [] => [[c]]
      | p :: ps => (c :: p) :: ps

/-- A digit of a base, if the character is one. -/
def digitOf (base : Nat) (c : Char) : Option Nat :=
  let d :=
    if '0' ≤ c ∧ c ≤ '9' then c.toNat - 0x30
    else if 'A' ≤ c ∧ c ≤ 'F' then c.toNat - 0x41 + 10
    else if 'a' ≤ c ∧ c ≤ 'f' then c.toNat - 0x61 + 10
    else base
  if d < base then some d else none

/-- A number of a base; the text is not empty. Leading zeros are allowed, so `ver=007` is version 7: a DESIGN CHOICE
(log 18). -/
def numberOf (base : Nat) (cs : List Char) : Option Nat :=
  if cs = [] then none
  else cs.foldl (fun acc c => acc.bind fun n => (digitOf base c).map fun d => base * n + d) (some 0)

/-- A number between two bounds. -/
def numberIn (lo hi : Nat) (cs : List Char) : Option Nat :=
  (numberOf 10 cs).filter fun n => decide (lo ≤ n ∧ n ≤ hi)

/-- The word `auto`. -/
def autoWord : List Char := ['a', 'u', 't', 'o']

/-- The value of each key: `ecc=L|M|Q|H`, `ver=auto|1..40`, `mode=auto|num|alnum|octet`, `mask=auto|0..7` (R73). -/
def operandOf (key value : List Char) : Option AsmOperand :=
  if key = ['e', 'c', 'c'] then
    if value = ['L'] then some (.ecc .l)
    else if value = ['M'] then some (.ecc .m)
    else if value = ['Q'] then some (.ecc .q)
    else if value = ['H'] then some (.ecc .h)
    else none
  else if key = ['v', 'e', 'r'] then
    if value = autoWord then some (.ver .auto)
    else (numberIn 1 40 value).map fun v => .ver (.fixed v)
  else if key = ['m', 'o', 'd', 'e'] then
    if value = autoWord then some (.mode .auto)
    else if value = ['n', 'u', 'm'] then some (.mode (.fixed .numeric))
    else if value = ['a', 'l', 'n', 'u', 'm'] then some (.mode (.fixed .alphanumeric))
    else if value = ['o', 'c', 't', 'e', 't'] then some (.mode (.fixed .octet))
    else none
  else if key = ['m', 'a', 's', 'k'] then
    if value = autoWord then some (.mask .auto)
    else (numberIn 0 7 value).map fun m => .mask (.fixed m)
  else none

/-- One `key=value` text. -/
def parseOperand (cs : List Char) : Except AsmError AsmOperand :=
  match splitAtChar '=' cs with
  | [k, v] =>
    match operandOf (trimBlanks k) (trimBlanks v) with
    | some o => .ok o
    | none => .error .badOperand
  | _ => .error .badOperand

/-- `0xHHHHHHHH` with eight digits, the operand of `.cmd` (R73). -/
def rawWord (cs : List Char) : Except AsmError Word :=
  match cs with
  | '0' :: 'x' :: ds =>
    if ds.length = 8 then
      match numberOf 16 ds with
      | some n => .ok (BitVec.ofNat 32 n)
      | none => .error .badOperand
    else .error .badOperand
  | _ => .error .badOperand

/-- The word of a line (R73). -/
def assemble (line : List Char) : Except AsmError Word :=
  let cs := trimBlanks line
  let name := cs.takeWhile (· != ' ')
  let rest := trimBlanks (cs.dropWhile (· != ' '))
  if name = ['.', 'c', 'm', 'd'] then rawWord rest
  else
    match opcodeOf name with
    | none => .error .unknownMnemonic
    | some op =>
      if rest = [] then assembleOperands op []
      else
        match (splitAtChar ',' rest).mapM parseOperand with
        | .error e => .error e
        | .ok ops => assembleOperands op ops

end Sys2Proof.Machine
end

