-- ==== Sys2Proof/Safety.lean ====
section
/-! DEFINITION. What every reachable state satisfies, in the terms claims use. `State.Inv` rules out the
states no run reaches; that it holds at reset and that every step keeps it are statements of their own. -/

namespace Sys2Proof.Machine

/-- The step answers a next state: nothing this machine can meet stops it (20_memory.md R50,
60_exceptions.md R160, R163). -/
def Goes (o : Host.Outcome State Fault Refusal) : Prop := ∃ t, o = .next t

/-- The version of the current symbol (10_state.md R39). -/
def State.version (s : State) : Nat := s.mver.toNat

/-- Memory is canonical, lists only bytes of buffers and cells of MTX and RSV, and a cell holds 0 or 1
(10_state.md R36, R37). -/
def State.MemInv (s : State) : Prop :=
  s.mem.wf ∧ ∀ e ∈ s.mem, isStorage e.1 = true ∧ (mtxBase ≤ e.1 → e.2.toNat ≤ 1)

/-- The GF tables are absent or hold exactly what `build_tables` computes (40_gf_tables.md R81, R82). -/
def State.TablesInv (s : State) : Prop := ∀ t, s.tables = some t → t = builtTables

/-- MVER is 0 exactly in phase EMPTY, and never above 40 (10_state.md R38, R39). -/
def State.VersionInv (s : State) : Prop :=
  s.version ≤ 40 ∧ (s.phase = .empty ↔ s.version = 0)

/-- From BASE on, RSV of the square is the reserved mask of the version: the host cannot write it
(10_state.md R37, 20_memory.md R46) and only BUILDBASE and GENERATE do. -/
def State.ReservedInv (s : State) : Prop :=
  s.phase ≠ .empty → ∀ r c, r < s.side → c < s.side →
    s.mem.read (cellAddr rsvBase r c) = some (cellByte (baseCell s.version r c).isSome)

/-- From BASE on every reserved cell of the square holds a value; in PLACED and FINAL every cell does
(10_state.md R38, 20_memory.md R59). -/
def State.ValuedInv (s : State) : Prop :=
  ∀ r c, r < s.side → c < s.side →
    (s.phase ≠ .empty → (baseCell s.version r c).isSome = true →
      (s.mem.read (cellAddr mtxBase r c)).isSome = true) ∧
    (s.hasData = true → (s.mem.read (cellAddr mtxBase r c)).isSome = true)

/-- While BUSY, DONE is 0 and ERRCODE is 0 (10_state.md R26, 60_exceptions.md R159). No command is in flight while
reset is asserted: a DESIGN CHOICE (log 8). -/
def State.ProtocolInv (s : State) : Prop :=
  (s.busy = true → s.done = false ∧ s.err = .ok) ∧ (s.inReset = true → s.busy = false)

/-- The invariant of the machine. -/
def State.Inv (s : State) : Prop :=
  s.MemInv ∧ s.TablesInv ∧ s.VersionInv ∧ s.ReservedInv ∧ s.ValuedInv ∧ s.ProtocolInv

end Sys2Proof.Machine
end

