-- ==== Sys2Proof/WellFormed.lean ====
section
/-! DEFINITION. A command is well formed when every field its opcode reads holds a value that opcode
accepts (30_encoding.md R64 to R67, R71). These are the commands the assembler of R73 can write; the
others are commands too, and complete with the error code of the field. -/

namespace Sys2Proof

/-- R64: "Values 4 to 7 are refused". -/
def eccLegal (ecc : BitVec 3) : Bool := decide (ecc.toNat ≤ 3)

/-- R65: "VER holds the version 1 to 40"; 0 only where `auto` is accepted. -/
def verLegal (auto : Bool) (ver : BitVec 6) : Bool :=
  decide (1 ≤ ver.toNat ∧ ver.toNat ≤ 40) || (auto && decide (ver.toNat = 0))

/-- R66: 1, 2 and 4; 0 only where `auto` is accepted. -/
def modeLegal (auto : Bool) (mode : BitVec 4) : Bool :=
  decide (mode.toNat = 1 ∨ mode.toNat = 2 ∨ mode.toNat = 4) || (auto && decide (mode.toNat = 0))

/-- R67: 0 to 7; 15 only where `auto` is accepted. -/
def maskLegal (auto : Bool) (mask : BitVec 4) : Bool :=
  decide (mask.toNat ≤ 7) || (auto && decide (mask.toNat = 15))

/-- Every field the opcode reads holds a value it accepts (R71). -/
def Instr.wellFormed : Instr → Bool
  | .nop => true
  | .tblinit => true
  | .gfmul => true
  | .gfexp => true
  | .gflog => true
  | .genrd => true
  | .capq ecc ver mode => eccLegal ecc && verLegal false ver && modeLegal false mode
  | .bchq ecc ver mask => eccLegal ecc && verLegal false ver && maskLegal false mask
  | .validate mode => modeLegal true mode
  | .pack ecc ver mode => eccLegal ecc && verLegal false ver && modeLegal false mode
  | .rsrem => true
  | .augment ecc ver => eccLegal ecc && verLegal false ver
  | .buildbase ver => verLegal false ver
  | .place => true
  | .applymask mask => maskLegal false mask
  | .writefmt ecc mask => eccLegal ecc && maskLegal false mask
  | .score => true
  | .select ecc mask => eccLegal ecc && maskLegal true mask
  | .generate ecc ver mode mask =>
      eccLegal ecc && verLegal true ver && modeLegal true mode && maskLegal true mask

end Sys2Proof
end

