-- ==== Sys2Proof/Certificates/Slice0/Obligations.lean ====
section
/-! DEFINITION. The statements about the QRE, with the reference functions they are stated by. A reference
function is written from a rule and apart from the model: the field product by shift and add, the remainder
in its streaming form, the padded codeword stream bit by bit, the causes and order of the errors. -/

namespace Sys2Proof.Claims

open Sys2Proof Sys2Proof.Machine

/-! ## Reference functions -/

/-- Multiplication by x modulo x^8+x^4+x^3+x^2+1 (R75). -/
def timesX (a : Byte) : Byte := if a.getLsbD 7 then (a <<< 1) ^^^ 0x1D else a <<< 1

/-- α^i by repeated multiplication by x (R75). -/
def alphaPow (i : Nat) : Byte := timesX^[i] 1

/-- The product in GF(256), by shift and add (R75). -/
def fieldProduct (a b : Byte) : Byte :=
  (List.range 8).foldl (fun acc i => if b.getLsbD i then acc ^^^ timesX^[i] a else acc) 0

/-- The value at `x` of a polynomial over GF(256), its coefficients highest degree first. -/
def polyAt (coefs : List Byte) (x : Byte) : Byte :=
  coefs.foldl (fun acc c => fieldProduct acc x ^^^ c) 0

/-- The coefficients of the generator of degree K below x^K, as field elements, highest degree first (R79). -/
def generatorCoefs (k : Nat) : List Byte := (builtTables.genAt k).map fun x => alphaPow x.toNat

/-- One step of the K-stage register of R117. -/
def registerStep (g : List Byte) (reg : List Byte) (b : Byte) : List Byte :=
  ((reg.drop 1) ++ [0]).zipWith (· ^^^ ·) (g.map (fieldProduct (b ^^^ reg.headD 0)))

/-- The remainder in its streaming form (R117). -/
def streamedRemainder (k : Nat) (blk : List Byte) : List Byte :=
  blk.foldl (registerStep (generatorCoefs k)) (List.replicate k 0)

/-- The bits of a word each command reads (R62, R71). -/
def readMask : Instr → Word
  | .nop | .tblinit | .gfmul | .gfexp | .gflog | .genrd | .rsrem | .place | .score => 0x0000001F
  | .capq _ _ _ => 0x0003FFFF
  | .bchq _ _ _ => 0x003C3FFF
  | .validate _ => 0x0003C01F
  | .pack _ _ _ => 0x0003FFFF
  | .augment _ _ => 0x00003FFF
  | .buildbase _ => 0x00003F1F
  | .applymask _ => 0x003C001F
  | .writefmt _ _ => 0x003C00FF
  | .select _ _ => 0x003C00FF
  | .generate _ _ _ _ => 0x003FFFFF

/-- The offsets R44 leaves unmapped. -/
def Unmapped (a : Nat) : Prop :=
  (0x100 ≤ a ∧ a ≤ 0x1FFF) ∨ (0x6020 ≤ a ∧ a ≤ 0x6FFF) ∨ (0x7600 ≤ a ∧ a ≤ 0xFFFF) ∨ 0x30000 ≤ a

/-- The buffers and windows of R44. -/
def BufferOrWindow (a : Nat) : Prop :=
  (0x2000 ≤ a ∧ a ≤ 0x601F) ∨ (0x7000 ≤ a ∧ a ≤ 0x75FF) ∨ (0x10000 ≤ a ∧ a ≤ 0x2FFFF)

/-- The widths and alignments a buffer or window takes (R49). -/
def Aligned (a width : Nat) : Prop :=
  width = 8 ∨ (width = 16 ∧ a % 2 = 0) ∨ (width = 32 ∧ a % 4 = 0)

/-- The accesses that get a bus error (R49). -/
def GetsBusError (a width : Nat) : Prop :=
  Unmapped a ∨ (a ≤ 0xFF ∧ ¬ (width = 32 ∧ a % 4 = 0)) ∨ (BufferOrWindow a ∧ ¬ Aligned a width)

/-- The machine is idle and out of reset: the host's accesses take effect. -/
def Idle (s : State) : Prop := s.busy = false ∧ s.inReset = false

/-- A command is in flight and reset is not asserted. -/
def Running (s : State) : Prop := s.busy = true ∧ s.inReset = false

/-- Stream bit `k` of the bytes of memory from `base` on (R15, R47). -/
def storedBit (m : Memory) (base k : Nat) : Option Bool :=
  (m.read (base + k / 8)).map fun b => b.getLsbD (7 - k % 8)

/-- The number of payload bits of `n` elements (R108). -/
def payloadLength (mo : Mode) (n : Nat) : Nat :=
  match mo with
  | .numeric => 10 * (n / 3) + (if n % 3 = 0 then 0 else if n % 3 = 1 then 4 else 7)
  | .alphanumeric => 11 * (n / 2) + 6 * (n % 2)
  | .octet => 8 * n

/-- The 45 bytes of R103 in the order of the string of R104. -/
def alnumOrder : List Byte :=
  [0x30, 0x31, 0x32, 0x33, 0x34, 0x35, 0x36, 0x37, 0x38, 0x39] ++
  [0x41, 0x42, 0x43, 0x44, 0x45, 0x46, 0x47, 0x48, 0x49, 0x4A, 0x4B, 0x4C, 0x4D] ++
  [0x4E, 0x4F, 0x50, 0x51, 0x52, 0x53, 0x54, 0x55, 0x56, 0x57, 0x58, 0x59, 0x5A] ++
  [0x20, 0x24, 0x25, 0x2A, 0x2B, 0x2D, 0x2E, 0x2F, 0x3A]

/-- The width of the length field, R95 as printed. -/
def lengthWidth (v : Nat) (mo : Mode) : Nat :=
  match mo with
  | .numeric => if v ≤ 9 then 10 else if v ≤ 26 then 12 else 14
  | .alphanumeric => if v ≤ 9 then 9 else if v ≤ 26 then 11 else 13
  | .octet => if v ≤ 9 then 8 else 16

/-- The number of stream bits of `n` elements (R108). -/
def streamLength (v : Nat) (mo : Mode) (n : Nat) : Nat := 4 + lengthWidth v mo + payloadLength mo n

/-- The mode indicator of R108: 1, 2 or 4. -/
def modeNumber : Mode → Nat
  | .numeric => 1
  | .alphanumeric => 2
  | .octet => 4

/-- Payload bit `k` of the data: the group it lies in, and its place in that group's number (R109 to R111). -/
def payloadBit (mo : Mode) (data : List Byte) (k : Nat) : Bool :=
  match mo with
  | .numeric =>
    let d := fun i => (data.getD (3 * (k / 10) + i) 0).toNat - 0x30
    let left := data.length - 3 * (k / 10)
    if 3 ≤ left then (100 * d 0 + 10 * d 1 + d 2).testBit (9 - k % 10)
    else if left = 2 then (10 * d 0 + d 1).testBit (6 - k % 10)
    else (d 0).testBit (3 - k % 10)
  | .alphanumeric =>
    let x := fun i => alnumOrder.idxOf (data.getD (2 * (k / 11) + i) 0)
    if 2 ≤ data.length - 2 * (k / 11) then (45 * x 0 + x 1).testBit (10 - k % 11)
    else (x 0).testBit (5 - k % 11)
  | .octet => (data.getD (k / 8) 0).getLsbD (7 - k % 8)

/-- Stream bit `k`: mode indicator, length field, payload, each most significant bit first (R108). -/
def streamBit (v : Nat) (mo : Mode) (data : List Byte) (k : Nat) : Bool :=
  let w := lengthWidth v mo
  if k < 4 then (modeNumber mo).testBit (3 - k)
  else if k < 4 + w then data.length.testBit (w - 1 - (k - 4))
  else payloadBit mo data (k - 4 - w)

/-- The stream before its terminator, bit by bit (R108). -/
def streamOf (v : Nat) (mo : Mode) (data : List Byte) : List Bool :=
  (List.range (streamLength v mo data.length)).map (streamBit v mo data)

/-- Bit `k` of the `dt` codewords of a stream: its own bits, then the terminator and the fill to the byte
boundary, all 0, then the pad bytes 0xEC and 0x11 in turn (R112). -/
def codewordBit (bits : List Bool) (dt k : Nat) : Bool :=
  let full := (min (bits.length + 4) (8 * dt) + 7) / 8
  if k < bits.length then bits.getD k false
  else if k / 8 < full then false
  else (if (k / 8 - full) % 2 = 0 then (0xEC : Byte) else 0x11).getLsbD (7 - k % 8)

/-- The 32 format codes as R99 prints them, by level code and mask. -/
def formatCodes : List (List Nat) := [
  [0x5412, 0x5125, 0x5E7C, 0x5B4B, 0x45F9, 0x40CE, 0x4F97, 0x4AA0],
  [0x77C4, 0x72F3, 0x7DAA, 0x789D, 0x662F, 0x6318, 0x6C41, 0x6976],
  [0x1689, 0x13BE, 0x1CE7, 0x19D0, 0x0762, 0x0255, 0x0D0C, 0x083B],
  [0x355F, 0x3068, 0x3F31, 0x3A06, 0x24B4, 0x2183, 0x2EDA, 0x2BED]]

/-- The version codes of versions 7 to 40 as R100 prints them. -/
def versionCodes : List Nat := [
  0x07C94, 0x085BC, 0x09A99, 0x0A4D3, 0x0BBF6, 0x0C762, 0x0D847, 0x0E60D, 0x0F928, 0x10B78, 0x1145D, 0x12A17] ++ [
  0x13532, 0x149A6, 0x15683, 0x168C9, 0x177EC, 0x18EC4, 0x191E1, 0x1AFAB, 0x1B08E, 0x1CC1A, 0x1D33F, 0x1ED75] ++ [
  0x1F250, 0x209D5, 0x216F0, 0x228BA, 0x2379F, 0x24B0B, 0x2542E, 0x26A64, 0x27541, 0x28C69]

/-- R94 as printed, row v - 1: RAW, TDB and the data codewords D of levels M, L, H, Q. -/
def capacityTable : List (List Nat) :=
  [[208, 208, 16, 19, 9, 13], [359, 352, 28, 34, 16, 22], [567, 560, 44, 55, 26, 34],
    [807, 800, 64, 80, 36, 48], [1079, 1072, 86, 108, 46, 62], [1383, 1376, 108, 136, 60, 76],
    [1568, 1568, 124, 156, 66, 88], [1936, 1936, 154, 194, 86, 110], [2336, 2336, 182, 232, 100, 132],
    [2768, 2768, 216, 274, 122, 154]] ++
  [[3232, 3232, 254, 324, 140, 180], [3728, 3728, 290, 370, 158, 206], [4256, 4256, 334, 428, 180, 244],
    [4651, 4648, 365, 461, 197, 261], [5243, 5240, 415, 523, 223, 295], [5867, 5864, 453, 589, 253, 325],
    [6523, 6520, 507, 647, 283, 367], [7211, 7208, 563, 721, 313, 397], [7931, 7928, 627, 795, 341, 445],
    [8683, 8680, 669, 861, 385, 485]] ++
  [[9252, 9248, 714, 932, 406, 512], [10068, 10064, 782, 1006, 442, 568], [10916, 10912, 860, 1094, 464, 614],
    [11796, 11792, 914, 1174, 514, 664], [12708, 12704, 1000, 1276, 538, 718], [13652, 13648, 1062, 1370, 596, 754],
    [14628, 14624, 1128, 1468, 628, 808], [15371, 15368, 1193, 1531, 661, 871], [16411, 16408, 1267, 1631, 701, 911],
    [17483, 17480, 1373, 1735, 745, 985]] ++
  [[18587, 18584, 1455, 1843, 793, 1033], [19723, 19720, 1541, 1955, 845, 1115], [20891, 20888, 1631, 2071, 901, 1171],
    [22091, 22088, 1725, 2191, 961, 1231], [23008, 23008, 1812, 2306, 986, 1286], [24272, 24272, 1914, 2434, 1054, 1354],
    [25568, 25568, 1992, 2566, 1096, 1426], [26896, 26896, 2102, 2702, 1142, 1502], [28256, 28256, 2216, 2812, 1222, 1582],
    [29648, 29648, 2334, 2956, 1276, 1666]]

/-- R89 as printed, row v - 1: the ECC codewords per block of levels M, L, H, Q, then the block counts. -/
def eccTable : List (List Nat) :=
  [[10, 7, 17, 13, 1, 1, 1, 1], [16, 10, 28, 22, 1, 1, 1, 1], [26, 15, 22, 18, 1, 1, 2, 2],
    [18, 20, 16, 26, 2, 1, 4, 2], [24, 26, 22, 18, 2, 1, 4, 4], [16, 18, 28, 24, 4, 2, 4, 4],
    [18, 20, 26, 18, 4, 2, 5, 6], [22, 24, 26, 22, 4, 2, 6, 6], [22, 30, 24, 20, 5, 2, 8, 8],
    [26, 18, 28, 24, 5, 4, 8, 8]] ++
  [[30, 20, 24, 28, 5, 4, 11, 8], [22, 24, 28, 26, 8, 4, 11, 10], [22, 26, 22, 24, 9, 4, 16, 12],
    [24, 30, 24, 20, 9, 4, 16, 16], [24, 22, 24, 30, 10, 6, 18, 12], [28, 24, 30, 24, 10, 6, 16, 17],
    [28, 28, 28, 28, 11, 6, 19, 16], [26, 30, 28, 28, 13, 6, 21, 18], [26, 28, 26, 26, 14, 7, 25, 21],
    [26, 28, 28, 30, 16, 8, 25, 20]] ++
  [[26, 28, 30, 28, 17, 8, 25, 23], [28, 28, 24, 30, 17, 9, 34, 23], [28, 30, 30, 30, 18, 9, 30, 25],
    [28, 30, 30, 30, 20, 10, 32, 27], [28, 26, 30, 30, 21, 12, 35, 29], [28, 28, 30, 28, 23, 12, 37, 34],
    [28, 30, 30, 30, 25, 12, 40, 34], [28, 30, 30, 30, 26, 13, 42, 35], [28, 30, 30, 30, 28, 14, 45, 38],
    [28, 30, 30, 30, 29, 15, 48, 40]] ++
  [[28, 30, 30, 30, 31, 16, 51, 43], [28, 30, 30, 30, 33, 17, 54, 45], [28, 30, 30, 30, 35, 18, 57, 48],
    [28, 30, 30, 30, 37, 19, 60, 51], [28, 30, 30, 30, 38, 19, 63, 53], [28, 30, 30, 30, 40, 20, 66, 56],
    [28, 30, 30, 30, 43, 21, 70, 59], [28, 30, 30, 30, 45, 22, 74, 62], [28, 30, 30, 30, 47, 24, 77, 65],
    [28, 30, 30, 30, 49, 25, 81, 68]]

/-- R89 as printed, row v - 1: the alignment centres. -/
def alignTable : List (List Nat) :=
  [[], [6, 18], [6, 22],
    [6, 26], [6, 30], [6, 34],
    [6, 22, 38], [6, 24, 42], [6, 26, 46],
    [6, 28, 50]] ++
  [[6, 30, 54], [6, 32, 58], [6, 34, 62],
    [6, 26, 46, 66], [6, 26, 48, 70], [6, 26, 50, 74],
    [6, 30, 54, 78], [6, 30, 56, 82], [6, 30, 58, 86],
    [6, 34, 62, 90]] ++
  [[6, 28, 50, 72, 94], [6, 26, 50, 74, 98], [6, 30, 54, 78, 102],
    [6, 28, 54, 80, 106], [6, 32, 58, 84, 110], [6, 30, 58, 86, 114],
    [6, 34, 62, 90, 118], [6, 26, 50, 74, 98, 122], [6, 30, 54, 78, 102, 126],
    [6, 26, 52, 78, 104, 130]] ++
  [[6, 30, 56, 82, 108, 134], [6, 34, 60, 86, 112, 138], [6, 30, 58, 86, 114, 142],
    [6, 34, 62, 90, 118, 146], [6, 30, 54, 78, 102, 126, 150], [6, 24, 50, 76, 102, 128, 154],
    [6, 28, 54, 80, 106, 132, 158], [6, 32, 58, 84, 110, 136, 162], [6, 26, 54, 82, 110, 138, 166],
    [6, 30, 58, 86, 114, 142, 170]]

/-- The product over GF(2) of a polynomial of six terms and another, as bit patterns (R98). -/
def binaryProduct (q p : Nat) : Nat :=
  (List.range 6).foldl (fun acc i => if q.testBit i then acc ^^^ (p <<< i) else acc) 0

/-- Column `i` of the row of version `v` of a printed table. -/
def tableEntry (table : List (List Nat)) (v i : Nat) : Nat := (table.getD (v - 1) []).getD i 0

/-- The format code R99 prints for a level and a mask. -/
def printedFormat (e : Level) (m : Nat) : Nat := (formatCodes.getD (levelCode e) []).getD m 0

/-- The format bit of cell (r, c) of a symbol of side `n`, by the two strips of R136. -/
def formatBitAt (n code r c : Nat) : Option Bool :=
  if c = 8 ∧ r ≤ 5 then some (code.testBit r)
  else if c = 8 ∧ (r = 7 ∨ r = 8) then some (code.testBit (r - 1))
  else if c = 8 ∧ n - 7 ≤ r ∧ r < n then some (code.testBit (r + 15 - n))
  else if r = 8 ∧ n - 8 ≤ c ∧ c < n then some (code.testBit (n - 1 - c))
  else if r = 8 ∧ c = 7 then some (code.testBit 8)
  else if r = 8 ∧ c ≤ 5 then some (code.testBit (14 - c))
  else none

/-- Row `i` and column `j` of a square of side `n` (R137). -/
def rowLine (n : Nat) (g : List (List Bool)) (i : Nat) : List Bool := (List.range n).map fun j => cellAt g i j
def colLine (n : Nat) (g : List (List Bool)) (j : Nat) : List Bool := (List.range n).map fun i => cellAt g i j

/-- Penalty (a) of a run list: 3 + (x - 5) for each entry x of 5 or more (R138). -/
def runPenaltyA (g : List Nat) : Nat :=
  ((List.range g.length).map fun x => if 5 ≤ g.getD x 0 then 3 + (g.getD x 0 - 5) else 0).sum

/-- Penalty (c) of a run list: 40 for each t = 5, 7, 9, ... with black and white runs 1:1:3:1:1 up to g[t] and a
white run of at least 4 units before or after them (R139). -/
def runPenaltyC (g : List Nat) : Nat :=
  40 * (List.range g.length).countP fun t => decide (5 ≤ t ∧ t % 2 = 1 ∧
    g.getD (t - 1) 0 = g.getD t 0 ∧ g.getD (t - 2) 0 = 3 * g.getD t 0 ∧ g.getD (t - 3) 0 = g.getD t 0 ∧
    g.getD (t - 4) 0 = g.getD t 0 ∧ (4 * g.getD t 0 ≤ g.getD (t - 5) 0 ∨ 4 * g.getD t 0 ≤ g.getD (t + 1) 0))

/-- A penalty summed over the run lists of the n rows and the n columns (R138, R139). -/
def overLines (n : Nat) (g : List (List Bool)) (p : List Nat → Nat) : Nat :=
  ((List.range n).map fun i => p (runs (rowLine n g i)) + p (runs (colLine n g i))).sum

/-- Penalty (b): 3 for every 2 by 2 block of one colour (R140). -/
def blockPenalty (n : Nat) (g : List (List Bool)) : Nat :=
  3 * ((List.range (n - 1)).map fun i => (List.range (n - 1)).countP fun j =>
    cellAt g i j == cellAt g i (j + 1) && cellAt g i j == cellAt g (i + 1) j &&
      cellAt g i j == cellAt g (i + 1) (j + 1)).sum

/-- Penalty (d), by the exact integer form of R141. -/
def balancePenalty (n : Nat) (g : List (List Bool)) : Nat :=
  let bk : Int := ((List.range n).map fun i => (List.range n).countP fun j => cellAt g i j).sum
  10 * ((20 * bk - 10 * (n * n)).natAbs / (n * n))

/-- The score of a square of side `n` (R142). -/
def ruleScore (n : Nat) (g : List (List Bool)) : Nat :=
  overLines n g runPenaltyA + blockPenalty n g + overLines n g runPenaltyC + balancePenalty n g

/-- The square a trial of mask `m` scores: format cells by the code, data cells XORed with the mask (R143). -/
def trialGrid (s : State) (code m : Nat) : List (List Bool) :=
  (List.range s.side).map fun r => (List.range s.side).map fun c =>
    match formatBitAt s.side code r c with
    | some bit => bit
    | none => (cellAt s.matrix r c).xor (!cellAt s.reserved r c && maskAt m r c)

/-- The place of a cell outside column 6 in the scan of a square of side `n`, reserved or not (R129): by its
column pair, counted from the right edge without column 6, by its row, from below in the pairs 0, 2, 4, ... and
from above in the others, and by its side of the pair, the right one first. -/
def scanRank (n : Nat) (rc : Nat × Nat) : Nat :=
  let fromRight := if rc.2 < 6 then n - 2 - rc.2 else n - 1 - rc.2
  let pair := fromRight / 2
  let t := if pair % 2 = 0 then n - 1 - rc.1 else rc.1
  2 * (n * pair + t) + fromRight % 2

/-- The offset is a cell of MTX in the square of side `n`. -/
def InMtxSquare (n a : Nat) : Prop := ∃ r c, r < n ∧ c < n ∧ a = cellAddr mtxBase r c

/-- The offset is a cell of RSV in the square of side `n`. -/
def InRsvSquare (n a : Nat) : Prop := ∃ r c, r < n ∧ c < n ∧ a = cellAddr rsvBase r c

/-- The offset is one of the 30 format cells of a symbol of side `n` (R136). -/
def IsFormatCell (n a : Nat) : Prop :=
  ∃ b, b < 15 ∧ (a = cellAddr mtxBase ((formatRows n).getD b 0) 8 ∨
    a = cellAddr mtxBase 8 ((formatCols n).getD b 0))

/-- The offset is a data cell of MTX: in the square, with RSV 0 (R133, R145). -/
def IsDataCell (s : State) (a : Nat) : Prop :=
  ∃ r c, r < s.side ∧ c < s.side ∧ cellAt s.reserved r c = false ∧ a = cellAddr mtxBase r c

/-- The mode a command works in, its own or the detected one, for a MODE field that names one (R114, R151). -/
def workingMode (mode : BitVec 4) (data : List Byte) : Mode :=
  match mode.toNat with
  | 0 => detectMode data
  | 1 => .numeric
  | 2 => .alphanumeric
  | _ => .octet

/-- The version is a version (R65). -/
def IsVersion (v : Nat) : Prop := 1 ≤ v ∧ v ≤ 40

/-- The input after the folding of R105: an accepted lowercase letter becomes its capital when FOLD was sampled
1. -/
def foldedInput (s : State) (mo : Mode) : List Byte :=
  if mo = .alphanumeric ∧ s.sampledFold = true then
    s.inputBytes.map fun b => if isLower b then b - 0x20 else b
  else s.inputBytes

/-- GENERATE passes its checks: legal fields, valid data, and `v` the named version, which the data fits, or the
least version it fits (R151). -/
def GenerateAccepts (s : State) (ecc : BitVec 3) (ver : BitVec 6) (mode mask : BitVec 4) (e : Level) (v : Nat) :
    Prop :=
  let mo := workingMode mode s.inputBytes
  ecc.toNat = levelCode e ∧ (mode.toNat = 0 ∨ mode.toNat = 1 ∨ mode.toNat = 2 ∨ mode.toNat = 4) ∧
  s.len.toNat ≤ 8192 ∧ validFor mo s.inputBytes s.sampledFold = true ∧
  IsVersion v ∧ s.len.toNat ≤ maxDataLength v mo e ∧
  (ver.toNat = v ∨ (ver.toNat = 0 ∧ ∀ u, 1 ≤ u → u < v → maxDataLength u mo e < s.len.toNat)) ∧
  (mask.toNat ≤ 7 ∨ mask.toNat = 15)

/-- The bytes and cells a command may write: the "Writes" of its rule. -/
def MayWrite (i : Instr) (s : State) (a : Nat) : Prop :=
  match i with
  | .nop | .tblinit | .gfmul | .gfexp | .gflog | .genrd | .capq _ _ _ | .bchq _ _ _ | .score => False
  | .validate _ => ibufBase ≤ a ∧ a < ibufBase + s.len.toNat
  | .pack ecc ver _ => ∃ e, levelOf ecc = some e ∧ cwbBase ≤ a ∧ a < cwbBase + dataCodewords ver.toNat e
  | .rsrem => eccbBase ≤ a ∧ a < eccbBase + s.remDegree
  | .augment _ ver => ilbBase ≤ a ∧ a < ilbBase + totalCodewords ver.toNat
  | .buildbase ver => InMtxSquare (sideOf ver.toNat) a ∨ InRsvSquare (sideOf ver.toNat) a
  | .place => IsDataCell s a
  | .applymask _ => IsDataCell s a
  | .writefmt _ _ => IsFormatCell s.side a
  | .select _ _ => IsDataCell s a ∨ IsFormatCell s.side a
  | .generate ecc ver mode _ => ∃ e v, levelOf ecc = some e ∧
      resolveVersion ver s.len.toNat (workingMode mode s.inputBytes) e = .ok v ∧
      ((cwbBase ≤ a ∧ a < cwbBase + dataCodewords v e) ∨ (ilbBase ≤ a ∧ a < ilbBase + totalCodewords v) ∨
        InMtxSquare (sideOf v) a ∨ InRsvSquare (sideOf v) a)

/-- The result registers a command writes when it completes without error: RES0 to RES4 by number. -/
def resWritten : Instr → List Nat
  | .nop | .tblinit | .applymask _ => []
  | .gfmul | .gfexp | .gflog | .rsrem | .writefmt _ _ => [0]
  | .genrd | .bchq _ _ _ | .validate _ | .pack _ _ _ | .buildbase _ | .place | .select _ _ => [0, 1]
  | .augment _ _ => [0, 1, 2, 3]
  | .capq _ _ _ | .score | .generate _ _ _ _ => [0, 1, 2, 3, 4]

/-- The commands that read a GF table and so build them (R82), TBLINIT among them (R83). -/
def buildsTables : Instr → Bool
  | .tblinit | .gfmul | .gfexp | .gflog | .genrd | .rsrem | .augment _ _ | .generate _ _ _ _ => true
  | _ => false

/-- The phases a command is accepted in (R175). -/
def phaseAllowed : Instr → Phase → Bool
  | .place, p | .writefmt _ _, p => p != .empty
  | .applymask _, p | .score, p => p == .placed || p == .final
  | .select _ _, p => p == .placed
  | _, _ => true

/-- The phase a command that completes without error leaves (R175). -/
def phaseAfter : Instr → Phase → Phase
  | .buildbase _, _ => .base
  | .place, _ => .placed
  | .select _ _, _ => .final
  | .generate _ _ _ _, _ => .final
  | _, p => p

/-- The level of a legal ECC field (R64). -/
def workingLevel (ecc : BitVec 3) : Level :=
  match ecc.toNat with
  | 0 => .m
  | 1 => .l
  | 2 => .h
  | _ => .q

/-- The command meets the cause of the error (the causes of R155, for each command it is raised by). -/
def causes (i : Instr) (s : State) (e : ErrCode) : Bool :=
  match e, i with
  | .sequenceError, i => !phaseAllowed i s.phase
  | .invalidMode, .capq _ _ mode | .invalidMode, .pack _ _ mode =>
      decide (mode.toNat ≠ 1 ∧ mode.toNat ≠ 2 ∧ mode.toNat ≠ 4)
  | .invalidMode, .validate mode | .invalidMode, .generate _ _ mode _ =>
      decide (mode.toNat ≠ 0 ∧ mode.toNat ≠ 1 ∧ mode.toNat ≠ 2 ∧ mode.toNat ≠ 4)
  | .operandRange, .gfmul => decide (0xFF < s.argA.toNat ∨ 0xFF < s.argB.toNat)
  | .operandRange, .gfexp => decide (254 < s.argA.toNat)
  | .operandRange, .gflog => decide (255 < s.argA.toNat)
  | .operandRange, .genrd => decide (s.argA.toNat = 0 ∨ 30 < s.argA.toNat ∨ s.argA.toNat ≤ s.argB.toNat)
  | .operandRange, .rsrem =>
      decide (4095 < s.argA.toNat ∨ 2 ^ 24 ≤ s.argB.toNat ∨ s.argB.toNat / 2 ^ 16 % 256 = 0 ∨
        30 < s.argB.toNat / 2 ^ 16 % 256 ∨ 4096 < s.argA.toNat + s.argB.toNat % 2 ^ 16)
  | .operandRange, .validate _ | .operandRange, .pack _ _ _ | .operandRange, .generate _ _ _ _ =>
      decide (8192 < s.len.toNat)
  | .invalidDataFormat, .validate mode | .invalidDataFormat, .generate _ _ mode _ =>
      !validFor (workingMode mode s.inputBytes) s.inputBytes s.sampledFold
  | .invalidDataFormat, .pack _ _ mode => !validFor (workingMode mode s.inputBytes) s.inputBytes false
  | .invalidECCLevel, .capq ecc _ _ | .invalidECCLevel, .bchq ecc _ _ | .invalidECCLevel, .pack ecc _ _ =>
      decide (3 < ecc.toNat)
  | .invalidECCLevel, .augment ecc _ | .invalidECCLevel, .writefmt ecc _ | .invalidECCLevel, .select ecc _ =>
      decide (3 < ecc.toNat)
  | .invalidECCLevel, .generate ecc _ _ _ => decide (3 < ecc.toNat)
  | .invalidVersion, .capq _ ver _ | .invalidVersion, .bchq _ ver _ | .invalidVersion, .pack _ ver _ =>
      decide (ver.toNat = 0 ∨ 40 < ver.toNat)
  | .invalidVersion, .augment _ ver | .invalidVersion, .buildbase ver =>
      decide (ver.toNat = 0 ∨ 40 < ver.toNat)
  | .invalidVersion, .generate _ ver _ _ => decide (40 < ver.toNat)
  | .dataTooLarge, .pack ecc ver mode =>
      decide (maxDataLength ver.toNat (workingMode mode s.inputBytes) (workingLevel ecc) < s.len.toNat)
  | .dataTooLarge, .generate ecc ver mode _ =>
      let v := if ver.toNat = 0 then 40 else ver.toNat
      decide (maxDataLength v (workingMode mode s.inputBytes) (workingLevel ecc) < s.len.toNat)
  | .invalidMask, .bchq _ _ mask | .invalidMask, .applymask mask | .invalidMask, .writefmt _ mask =>
      decide (7 < mask.toNat)
  | .invalidMask, .select _ mask | .invalidMask, .generate _ _ _ mask =>
      decide (7 < mask.toNat ∧ mask.toNat ≠ 15)
  | _, _ => false

/-- The order of R158. -/
def errorOrder : List ErrCode :=
  [.illegalCommand, .sequenceError, .invalidMode, .operandRange, .invalidDataFormat, .invalidECCLevel,
    .invalidVersion, .dataTooLarge, .invalidMask]

/-- The word meets the cause of the error: RSVD or a reserved OP for IllegalCommand (R72), else its command's. -/
def wordCauses (w : Word) (s : State) (e : ErrCode) : Bool :=
  let illegal := decide (2 ^ 22 ≤ w.toNat ∨ 0x12 < w.toNat % 32)
  match e with
  | .illegalCommand => illegal
  | _ =>
    match decodeWord w with
    | .ok i => causes i s e
    | .error _ => false

/-- The code a word completes with: the first cause it meets, else 0 (R158). -/
def reportedError (w : Word) (s : State) : ErrCode := (errorOrder.find? (wordCauses w s)).getD .ok

/-- The line a run list describes, its entries white and black in turn (R137). -/
def lineOfRuns : Bool → List Nat → List Bool
  | _, [] => []
  | black, k :: ks => List.replicate k black ++ lineOfRuns (!black) ks

/-- The matrix holds `n` rows of `n` cells. -/
def IsGrid (n : Nat) (g : List (List Bool)) : Prop := g.length = n ∧ ∀ row ∈ g, row.length = n

/-- RES-register-only completion: what every result statement leaves of `s` beside what it names. -/
def completed (s : State) : State := { s with inflight := none, done := true, err := .ok }

/-- Completion with an error, and nothing else (R161). -/
def failed (s : State) (e : ErrCode) : State := { s with inflight := none, done := true, err := e }

end Sys2Proof.Claims

open Sys2Proof Sys2Proof.Machine Sys2Proof.Claims

/-! ## Encoding -/

/-- R62: the fields lie where the table says, and a word is assembled by the rule's formula. -/
def Obligations.CommandWordLayout : Prop :=
  (∀ (op : BitVec 5) (ecc : BitVec 3) (ver : BitVec 6) (mode mask : BitVec 4),
    wordOfFields op ecc ver mode mask =
      op.setWidth 32 ||| (ecc.setWidth 32 <<< 5) ||| (ver.setWidth 32 <<< 8) ||| (mode.setWidth 32 <<< 14) |||
        (mask.setWidth 32 <<< 18)) ∧
  ∀ w : Word,
    (fieldOp w).toNat = w.toNat % 32 ∧ (fieldEcc w).toNat = w.toNat / 2 ^ 5 % 8 ∧
    (fieldVer w).toNat = w.toNat / 2 ^ 8 % 64 ∧ (fieldMode w).toNat = w.toNat / 2 ^ 14 % 16 ∧
    (fieldMask w).toNat = w.toNat / 2 ^ 18 % 16 ∧ (fieldRsvd w).toNat = w.toNat / 2 ^ 22

/-- Every command, with every value of its fields, decodes from its own word, alone and at the front of bytes. -/
def Obligations.DecodeOfEncodeIsTheCommand : Prop :=
  ∀ (i : Instr) (rest : List Byte),
    decodeWord (encode i) = .ok i ∧ decodeBytes (bytesOfWord (encode i) ++ rest) = .ok (i, rest)

/-- R69: a word is a command exactly when RSVD is 0 and OP is in the map; the command holds every bit its row
reads and none of the ignored ones. -/
def Obligations.DecodingReadsExactlyTheReadFields : Prop :=
  ∀ w : Word,
    ((∃ i, decodeWord w = .ok i) ↔ w.toNat < 2 ^ 22 ∧ w.toNat % 32 ≤ 0x12) ∧
    ∀ i, decodeWord w = .ok i → encode i = w &&& readMask i

/-- Words of 95_test_vectors.md and 30_encoding.md R73, least significant byte first on the bus. -/
def Obligations.SpecWordsDecodeToTheirCommands : Prop :=
  decodeBytes [0x12, 0x41, 0x3C, 0x00] = .ok (.generate 0 1 1 15, []) ∧
  decodeBytes [0x26, 0x41, 0x00, 0x00] = .ok (.capq 1 1 1, []) ∧
  decodeBytes [0x27, 0x07, 0x00, 0x00] = .ok (.bchq 1 7 0, []) ∧
  decodeBytes [0x08, 0x80, 0x00, 0x00] = .ok (.validate 2, []) ∧
  decodeBytes [0x4B, 0x28, 0x00, 0x00] = .ok (.augment 2 40, []) ∧
  decodeBytes [0x0E, 0x00, 0x0C, 0x00] = .ok (.applymask 3, []) ∧
  decodeBytes [0x13, 0x00, 0x00, 0x00] = .error .reservedOpcode ∧
  decodeBytes [0x00, 0x00, 0x40, 0x00] = .error .reservedBits

/-- R64 to R67: the field codes, and that every other value is refused. -/
def Obligations.FieldCodesNameTheirValues : Prop :=
  (∀ (ecc : BitVec 3) (e : Level), levelOf ecc = some e ↔ ecc.toNat = levelCode e) ∧
  (levelCode .m = 0 ∧ levelCode .l = 1 ∧ levelCode .h = 2 ∧ levelCode .q = 3) ∧
  (∀ (ver : BitVec 6) (v : Nat), versionOf ver = some v ↔ ver.toNat = v ∧ IsVersion v) ∧
  (∀ (mode : BitVec 4) (mo : Mode), modeOf mode = some mo ↔ mode.toNat = modeCode mo) ∧
  (modeCode .numeric = 1 ∧ modeCode .alphanumeric = 2 ∧ modeCode .octet = 4) ∧
  ∀ (mask : BitVec 4) (m : Nat), maskOf mask = some m ↔ mask.toNat = m ∧ m ≤ 7

/-! ## Steps -/

/-- When the word in flight decodes, the engine's turn is the command: with no turn left the step is `exec` of
it at the state, and with the engine's turn first it is `exec` at the state without that turn. A word of the
opcode table that is placed for the next step runs at the state that accepted it. The turns and the placed word
are the model's (logs 1, 3). -/
def Obligations.StepRunsTheDecodedCommand : Prop :=
  (∀ (s : State) (i : Instr) (rest : List Turn), Running s →
    decodeBytes (bytesOfWord s.cmd) = .ok (i, []) →
      (s.turns = [] → step s = exec i s) ∧
      (s.turns = .engine :: rest → step s = exec i { s with turns := rest })) ∧
  ∀ (s : State) (w : Nat) (i : Instr), decodeTableWord 32 w = some i →
    step (s.withFetchWord 32 w) = exec i { s.accept (BitVec.ofNat 32 w) with inReset := false }

/-- R159: acceptance latches the word, samples FOLD, sets BUSY and clears DONE, ERRCODE and ERR, and changes
nothing else. -/
def Obligations.AcceptanceLatchesTheWord : Prop :=
  ∀ (s : State) (w : Word) (rest : List Turn), Idle s → s.turns = .host (.write 0x004 32 w) :: rest →
    step s = .next { s with
      turns := rest, reply := .done, cmd := w, inflight := some { fold := s.fold }, done := false, err := .ok }

/-- R20: from an idle state only a host write to CMD leads to a command in flight. -/
def Obligations.OnlyACmdWriteStartsACommand : Prop :=
  ∀ s t : State, s.busy = false → step s = .next t → t.busy = true →
    ∃ (w : Word) (rest : List Turn), s.turns = .host (.write 0x004 32 w) :: rest

/-- R164: a CMD write while BUSY sets OVR and does nothing else; OVR falls only by a 1 written to STATUS bit 8
or at reset. That the release of reset clears it, and not the assertion, is the model's choice (R169, R42, log
8). -/
def Obligations.CommandWriteWhileBusyIsDropped : Prop :=
  (∀ (s : State) (w : Word) (rest : List Turn), Running s → s.turns = .host (.write 0x004 32 w) :: rest →
    step s = .next { s with turns := rest, reply := .done, ovr := true }) ∧
  ∀ s t : State, s.ovr = true → step s = .next t → t.ovr = false →
    (∃ (w : Word) (rest : List Turn), s.turns = .host (.write 0x008 32 w) :: rest ∧ w.getLsbD 8 = true) ∨
    ∃ rest : List Turn, s.turns = .resetRelease :: rest

/-- R52: what each host access does while BUSY; the reads of LEN, ARGA and ARGB and the accesses of read-only
and reserved offsets, which R52 does not name, are as when idle (log 22). That STATUS shows TBLV as it was at
acceptance is the model's choice (log 23). The draw counter is the model's (log 4). -/
def Obligations.AccessesWhileBusyAreGuarded : Prop :=
  ∀ (s : State) (a width : Nat) (w : Word), Running s →
    (BufferOrWindow a → Aligned a width →
      s.hostWrite a width w = { s with reply := .done, accerr := true } ∧
      ∃ v, s.hostRead a width = { s with reply := .data v, accerr := true, draws := s.draws + 4 }) ∧
    (a = 0x010 ∨ a = 0x014 ∨ a = 0x018 → s.hostWrite a 32 w = { s with reply := .done, accerr := true }) ∧
    ((0x01C ≤ a ∧ a ≤ 0x030) ∨ (0x040 ≤ a ∧ a ≤ 0x05C) → a % 4 = 0 →
      ∃ v, s.hostRead a 32 = { s with reply := .data v, draws := s.draws + 4 }) ∧
    s.hostRead 0x000 32 = { s with reply := .data 0x51520701, draws := s.draws + 4 } ∧
    s.hostRead 0x004 32 = { s with reply := .data s.cmd, draws := s.draws + 4 } ∧
    s.hostRead 0x008 32 = { s with reply := .data s.statusWord, draws := s.draws + 4 } ∧
    s.hostRead 0x00C 32 = { s with reply := .data s.ctrlWord, draws := s.draws + 4 } ∧
    s.hostWrite 0x008 32 w = { s with
      reply := .done, done := s.done && !w.getLsbD 1, ovr := s.ovr && !w.getLsbD 8,
      accerr := s.accerr && !w.getLsbD 9 } ∧
    s.hostWrite 0x00C 32 w = { s with reply := .done, ie := w.getLsbD 0, fold := w.getLsbD 1 } ∧
    s.hostWrite 0x004 32 w = { s with reply := .done, ovr := true } ∧
    s.hostRead 0x010 32 = { s with reply := .data (s.len.setWidth 32), draws := s.draws + 4 } ∧
    s.hostRead 0x014 32 = { s with reply := .data s.argA, draws := s.draws + 4 } ∧
    s.hostRead 0x018 32 = { s with reply := .data s.argB, draws := s.draws + 4 } ∧
    ((0x034 ≤ a ∧ a ≤ 0x03C) ∨ (0x060 ≤ a ∧ a ≤ 0x0FF) → a % 4 = 0 →
      s.hostRead a 32 = { s with reply := .data 0, draws := s.draws + 4 }) ∧
    (a = 0x000 ∨ (0x01C ≤ a ∧ a ≤ 0x0FF) → a % 4 = 0 → s.hostWrite a 32 w = { s with reply := .done })

/-- R52, R173, R180: a host write in the BUSY window changes nothing a running command reads or leaves; the two
ends differ only in what the host's write may change. -/
def Obligations.HostWritesInTheBusyWindowLeaveTheCommandAlone : Prop :=
  ∀ (i : Instr) (s t : State) (a width : Nat) (w : Word), Running s → exec i s = .next t →
    ∃ t', exec i (s.hostWrite a width w) = .next t' ∧
      t' = { t with ie := t'.ie, fold := t'.fold, ovr := t'.ovr, accerr := t'.accerr, reply := t'.reply }

/-- R172: a command in flight completes: after the host accesses of its BUSY window, at the engine's turn. The
turns are the model's (log 1). -/
def Obligations.ACommandInFlightCompletes : Prop :=
  ∀ (s : State) (window : List Access) (rest : List Turn), Running s →
    s.turns = window.map Turn.host ++ .engine :: rest →
      ∃ t, core.run (window.length + 1) s = .next t ∧
        t.busy = false ∧ t.done = true ∧ t.cmd = s.cmd ∧ t.turns = rest

/-- R158 at the engine's turn: the code reported is that of the first cause met, in the rule's order. -/
def Obligations.TheFirstErrorInOrderIsReported : Prop :=
  ∀ (s : State) (rest : List Turn), Running s → s.turns = .engine :: rest →
    ∃ t, step s = .next t ∧ t.err = reportedError s.cmd s

/-- R63, R68: a reserved OP or a nonzero RSVD completes with IllegalCommand and changes nothing else. -/
def Obligations.ReservedWordsCompleteWithIllegalCommand : Prop :=
  ∀ (s : State) (rest : List Turn), Running s → s.turns = .engine :: rest →
    2 ^ 22 ≤ s.cmd.toNat ∨ 0x13 ≤ s.cmd.toNat % 32 →
      step s = .next { s with turns := rest, inflight := none, done := true, err := .illegalCommand }

/-! ## The bus -/

/-- R49, R50: exactly the accesses of R49 get a bus error, and one that does changes nothing but the answer. -/
def Obligations.BusErrorsAreExactAndHarmless : Prop :=
  ∀ (s : State) (off : BitVec 18) (width : Nat) (w : Word), s.inReset = false →
    (GetsBusError off.toNat width →
      s.hostAccess (.read off width) = { s with reply := .busError } ∧
      s.hostAccess (.write off width w) = { s with reply := .busError }) ∧
    (¬ GetsBusError off.toNat width →
      (s.hostAccess (.read off width)).reply ≠ .busError ∧
      (s.hostAccess (.write off width w)).reply ≠ .busError)

/-- The CSR map of R23 as an idle machine reads and writes it (R27 to R32): reserved offsets read 0, and
read-only and reserved ones ignore writes. The draw counter is the model's (log 4). -/
def Obligations.IdleCsrAccessesFollowTheMap : Prop :=
  ∀ (s : State) (w : Word), Idle s →
    (∀ p ∈ ([(0x000, 0x51520701), (0x004, s.cmd), (0x008, s.statusWord), (0x00C, s.ctrlWord),
        (0x010, s.len.setWidth 32), (0x014, s.argA), (0x018, s.argB), (0x01C, s.res0), (0x020, s.res1),
        (0x024, s.res2), (0x028, s.res3), (0x02C, s.res4), (0x030, s.minfoWord), (0x040, s.sb[0]),
        (0x044, s.sb[1]), (0x048, s.sb[2]), (0x04C, s.sb[3]), (0x050, s.sb[4]), (0x054, s.sb[5]),
        (0x058, s.sb[6]), (0x05C, s.sb[7])] : List (Nat × Word)),
      s.hostRead p.1 32 = { s with reply := .data p.2, draws := s.draws + 4 }) ∧
    (∀ a, (0x034 ≤ a ∧ a ≤ 0x03C) ∨ (0x060 ≤ a ∧ a ≤ 0x0FF) → a % 4 = 0 →
      s.hostRead a 32 = { s with reply := .data 0, draws := s.draws + 4 }) ∧
    s.hostWrite 0x00C 32 w = { s with reply := .done, ie := w.getLsbD 0, fold := w.getLsbD 1 } ∧
    s.hostWrite 0x010 32 w = { s with reply := .done, len := BitVec.ofNat 14 (w.toNat % 2 ^ 14) } ∧
    s.hostWrite 0x014 32 w = { s with reply := .done, argA := w } ∧
    s.hostWrite 0x018 32 w = { s with reply := .done, argB := w } ∧
    ∀ a, a = 0x000 ∨ (0x01C ≤ a ∧ a ≤ 0x0FF) → a % 4 = 0 → s.hostWrite a 32 w = { s with reply := .done }

/-- R26: the STATUS bits, ERR as ERRCODE not 0, and the W1C write. R27: CTRL reads IE in bit 0, FOLD in bit 1
and 0 above. R155: the numbers of the error codes. R31: MINFO holds MVER, MSTATE and MSIZE in its fields and 0
elsewhere. -/
def Obligations.StatusAndMinfoFields : Prop :=
  ∀ s : State,
    s.statusWord.toNat =
      s.busy.toNat + 2 * s.done.toNat + 4 * (decide (s.err ≠ .ok)).toNat + 8 * s.tables.isSome.toNat +
        16 * s.err.code.toNat + 256 * s.ovr.toNat + 512 * s.accerr.toNat ∧
    s.ctrlWord.toNat = s.ie.toNat + 2 * s.fold.toNat ∧
    (ErrCode.ok.code = 0 ∧ ErrCode.invalidMode.code = 1 ∧ ErrCode.invalidDataFormat.code = 2 ∧
      ErrCode.invalidECCLevel.code = 3 ∧ ErrCode.invalidVersion.code = 4 ∧ ErrCode.dataTooLarge.code = 5 ∧
      ErrCode.invalidMask.code = 6 ∧ ErrCode.illegalCommand.code = 7 ∧ ErrCode.sequenceError.code = 8 ∧
      ErrCode.operandRange.code = 9) ∧
    (Phase.empty.code = 0 ∧ Phase.base.code = 1 ∧ Phase.placed.code = 2 ∧ Phase.final.code = 3) ∧
    (∀ w : Word, s.inReset = false →
      s.hostWrite 0x008 32 w = { s with
        reply := .done, done := s.done && !w.getLsbD 1, ovr := s.ovr && !w.getLsbD 8,
        accerr := s.accerr && !w.getLsbD 9 }) ∧
    (s.version ≤ 40 →
      s.minfoWord.toNat =
        s.version + 2 ^ 8 * s.phase.code.toNat + 2 ^ 16 * (if s.version = 0 then 0 else 4 * s.version + 17))

/-- R48, R51: a read of a buffer gives each stored byte at its place, whatever its neighbours hold, and changes
nothing; a store puts its bytes at rising offsets, bits 7:0 first, changes nothing else, and reads back. The
draw counter is the model's (log 4). -/
def Obligations.BufferAccessesAreLittleEndian : Prop :=
  ∀ (s : State) (a width : Nat) (w : Word), Idle s → Aligned a width → 0x2000 ≤ a → a ≤ 0x601F →
    (∃ v : Word, s.hostRead a width = { s with reply := .data v, draws := s.draws + 4 } ∧ v.toNat < 2 ^ width ∧
      ∀ i b, i < width / 8 → s.mem.read (a + i) = some b → v.extractLsb' (8 * i) 8 = b) ∧
    ∃ t, s.hostWrite a width w = t ∧ t = { s with reply := .done, mem := t.mem } ∧
      (∀ i, i < width / 8 → t.mem.read (a + i) = some (BitVec.ofNat 8 (w.toNat / 2 ^ (8 * i)))) ∧
      (∀ x, x < a ∨ a + width / 8 ≤ x → t.mem.read x = s.mem.read x) ∧
      (t.hostRead a width).reply = .data (BitVec.ofNat 32 (w.toNat % 2 ^ width))

/-- R46 and R48, for accesses of every width of an idle machine with cells of 0 and 1: what the bytes of a
matrix window read and store; a 32-bit read of MTXWIN has four cells in bits 0, 8, 16 and 24, and a read changes
nothing (R51). The draw counter is the model's (log 4). -/
def Obligations.MatrixWindowsReadAndStoreCells : Prop :=
  ∀ (s : State) (a width : Nat) (w : Word), Idle s → s.MemInv → Aligned a width → 0x10000 ≤ a → a ≤ 0x2FFFF →
    (∃ v : Word, s.hostRead a width = { s with reply := .data v, draws := s.draws + 4 } ∧ v.toNat < 2 ^ width ∧
      ∀ i r c base, i < width / 8 → r ≤ 255 → c ≤ 255 → base = 0x10000 ∨ base = 0x20000 →
        a + i = base + 256 * r + c →
        let byte := v.extractLsb' (8 * i) 8
        (177 ≤ r ∨ 177 ≤ c → byte = 0) ∧
        (r ≤ 176 → c ≤ 176 → byte.toNat ≤ 1 ∧ (∀ b, s.mem.read (a + i) = some b → byte = b) ∧
          (base = 0x20000 → s.mem.read (a + i) = some byte))) ∧
    (a ≤ 0x1FFFF →
      ∃ t, s.hostWrite a width w = t ∧ t = { s with reply := .done, mem := t.mem } ∧
        ∀ r c, r ≤ 255 → c ≤ 255 →
          t.mem.read (0x10000 + 256 * r + c) =
            if r ≤ 176 ∧ c ≤ 176 ∧ a ≤ 0x10000 + 256 * r + c ∧ 0x10000 + 256 * r + c < a + width / 8 then
              some (if w.getLsbD (8 * (0x10000 + 256 * r + c - a)) then 1 else 0)
            else s.mem.read (0x10000 + 256 * r + c)) ∧
    (a ≤ 0x1FFFF → ∀ x, x < 0x10000 ∨ 0x20000 ≤ x → (s.hostWrite a width w).mem.read x = s.mem.read x) ∧
    (0x20000 ≤ a → s.hostWrite a width w = { s with reply := .done })

/-- R45, with R48 for accesses of every width: the bytes of the table windows before the build and after it,
their writes, and that a read builds no tables and changes nothing (R51). The draw counter is the model's (log
4). -/
def Obligations.TableWindowsShowTheTables : Prop :=
  ∀ (s : State) (a width : Nat) (w : Word), Idle s → s.TablesInv → Aligned a width → 0x7000 ≤ a → a ≤ 0x75FF →
    s.hostWrite a width w = { s with reply := .done } ∧
    ∃ v : Word, s.hostRead a width = { s with reply := .data v, draws := s.draws + 4 } ∧ v.toNat < 2 ^ width ∧
      ∀ i, i < width / 8 →
        let byte := v.extractLsb' (8 * i) 8
        (s.tables = none → byte = 0) ∧
        (s.tables ≠ none →
          (∀ j, j ≤ 254 → a + i = 0x7000 + j → byte = alphaPow j) ∧
          (a + i = 0x70FF → byte = 0) ∧
          (a + i = 0x7100 → byte = 0xFF) ∧
          (∀ j, j ≤ 254 → a + i = 0x7100 + (alphaPow j).toNat → byte = BitVec.ofNat 8 j) ∧
          ∀ k j, k ≤ 31 → j ≤ 31 → a + i = 0x7200 + 32 * k + j →
            byte = if 1 ≤ k ∧ k ≤ 30 ∧ j < k then (builtTables.genAt k).getD j 0 else 0)

/-! ## Reset, interrupt, invariants -/

/-- R42: what reset leaves, as the table of the rule gives it. -/
def Obligations.ResetLeavesTheTableOfR42 : Prop :=
  let s := State.reset
  idValue = 0x51520701 ∧ s.cmd = 0 ∧ s.statusWord = 0 ∧ s.ctrlWord = 2 ∧ s.ie = false ∧ s.fold = true ∧
  s.len = 0 ∧ s.argA = 0 ∧ s.argB = 0 ∧ s.res0 = 0 ∧ s.res1 = 0 ∧ s.res2 = 0 ∧ s.res3 = 0 ∧ s.res4 = 0 ∧
  s.sb.toList = [0, 0, 0, 0, 0, 0, 0, 0] ∧ s.minfoWord = 0 ∧ s.phase = .empty ∧ s.mver = 0 ∧ s.msize = 0 ∧
  s.tables = none ∧ s.inflight = none ∧ s.irq = false ∧
  (∀ a, 0x7000 ≤ a → a ≤ 0x75FF → s.tableByte a = 0) ∧
  (∀ a, 0x2000 ≤ a → a ≤ 0x601F → s.mem.read a = none) ∧
  ∀ r c, r ≤ 176 → c ≤ 176 →
    s.mem.read (cellAddr mtxBase r c) = none ∧ s.mem.read (cellAddr rsvBase r c) = some 0

/-- R169: while reset is asserted writes are ignored, reads return some value and the engine rests; the command
in flight is gone without completion; release gives every piece of state its reset value. Which edge does what
is the model's choice (log 8). -/
def Obligations.ResetReplacesEverything : Prop :=
  ∀ (s t : State) (rest : List Turn),
    (s.turns = .resetAssert :: rest → step s = .next t →
      t = { s with turns := rest, inReset := true, inflight := none }) ∧
    (s.inReset = true → ∀ a width w,
      s.hostWrite a width w = { s with reply := .done } ∧
      ∃ v, s.hostRead a width = { s with reply := .data v, draws := s.draws + 4 }) ∧
    (s.inReset = true → s.engineTurn = .next s) ∧
    (s.inReset = true → s.turns = .resetRelease :: rest →
      step s = .next { State.reset with turns := rest, reply := s.reply, draws := s.draws })

/-- R166: IRQ is IE and DONE; it rises at completion when IE is 1 and when the host sets IE while DONE is 1; it
falls when DONE is cleared, when IE is cleared and at acceptance. -/
def Obligations.IrqFollowsEnableAndDone : Prop :=
  ∀ s : State,
    s.irq = (s.ie && s.done) ∧
    (∀ i t, exec i s = .next t → t.irq = s.ie) ∧
    (∀ w, s.inReset = false →
      (s.hostWrite 0x00C 32 w).irq = (w.getLsbD 0 && s.done) ∧
      (w.getLsbD 1 = true → (s.hostWrite 0x008 32 w).irq = false)) ∧
    ∀ w, Idle s → (s.hostWrite 0x004 32 w).irq = false

/-- The invariant holds at reset. -/
def Obligations.InvariantHoldsAtReset : Prop := State.reset.Inv

/-- Every step keeps memory in canonical form, from every state that has it. -/
def Obligations.EveryStepKeepsMemoryCanonical : Prop :=
  ∀ s t : State, s.mem.wf → step s = .next t → t.mem.wf

/-- Every step keeps the whole invariant: canonical memory of legal bytes, true tables, a legal version and
phase, the reserved mask of the version, values where commands read them, and the protocol. That no command is in
flight while reset is asserted is the model's choice (log 8): R169 puts the discarding at the release. -/
def Obligations.EveryStepKeepsTheInvariant : Prop :=
  ∀ s t : State, s.Inv → step s = .next t → t.Inv

/-! ## All commands -/

/-- R160: every command completes, clears BUSY, sets DONE, and leaves alone what only the host, the platform and
acceptance write. -/
def Obligations.EveryCommandCompletes : Prop :=
  ∀ (i : Instr) (s : State), ∃ t, exec i s = .next t ∧ t.busy = false ∧ t.done = true ∧
    t.cmd = s.cmd ∧ t.ovr = s.ovr ∧ t.accerr = s.accerr ∧ t.ie = s.ie ∧ t.fold = s.fold ∧ t.len = s.len ∧
    t.argA = s.argA ∧ t.argB = s.argB ∧ t.inReset = s.inReset ∧ t.turns = s.turns ∧ t.reply = s.reply

/-- R161, R162: a command that ends with an error has changed nothing but the STATUS completion fields (and the
model's own draw counter). The draw counter may advance (log 10). -/
def Obligations.AFailingCommandChangesNothing : Prop :=
  ∀ (i : Instr) (s t : State), exec i s = .next t → t.err ≠ .ok →
    t = { s with inflight := none, done := true, err := t.err, draws := t.draws }

/-- Which registers a command leaves alone: result registers it does not write, SB outside automatic selection,
MVER and MSTATE outside the commands that set them. -/
def Obligations.RegistersACommandLeavesAlone : Prop :=
  ∀ (i : Instr) (s t : State), exec i s = .next t →
    (0 ∉ resWritten i → t.res0 = s.res0) ∧ (1 ∉ resWritten i → t.res1 = s.res1) ∧
    (2 ∉ resWritten i → t.res2 = s.res2) ∧ (3 ∉ resWritten i → t.res3 = s.res3) ∧
    (4 ∉ resWritten i → t.res4 = s.res4) ∧
    (t.sb ≠ s.sb → (∃ ecc, i = .select ecc 15) ∨ ∃ ecc ver mode, i = .generate ecc ver mode 15) ∧
    (t.mver ≠ s.mver → (∃ ver, i = .buildbase ver) ∨ ∃ ecc ver mode mask, i = .generate ecc ver mode mask)

/-- Every byte and cell outside what its rule says a command writes reads as before. -/
def Obligations.MemoryACommandLeavesAlone : Prop :=
  ∀ (i : Instr) (s t : State) (a : Nat), s.version ≤ 40 → exec i s = .next t → ¬ MayWrite i s a →
    t.mem.read a = s.mem.read a

/-- R175: the phase each command requires and leaves; out of phase it completes with SequenceError and changes
nothing; no host access changes it. -/
def Obligations.MatrixPhasesFollowTheTable : Prop :=
  (∀ (i : Instr) (s : State), phaseAllowed i s.phase = false →
    exec i s = .next { s with inflight := none, done := true, err := .sequenceError }) ∧
  (∀ (i : Instr) (s t : State), phaseAllowed i s.phase = true → exec i s = .next t →
    t.err ≠ .sequenceError ∧ t.phase = if t.err = .ok then phaseAfter i s.phase else s.phase) ∧
  ∀ (s : State) (a : Access), (s.hostAccess a).phase = s.phase

/-- R82: the tables are built by a command that reads them, if its checks pass and TBLV is 0; no other command
builds them, and once built they stay. -/
def Obligations.TablesAreBuiltLazilyAndKept : Prop :=
  (∀ (i : Instr) (s t : State), s.TablesInv → exec i s = .next t →
    t.tables = if buildsTables i = true ∧ t.err = .ok then some builtTables else s.tables) ∧
  ∀ (s t : State) (a : Access), s.hostAccess a = t → t.tables = s.tables

/-! ## The commands, one by one -/

/-- R149: NOP completes and writes nothing else. R83: TBLINIT builds the tables, whether built or not. -/
def Obligations.NopAndTblinitComplete : Prop :=
  ∀ s : State,
    exec .nop s = .next { s with inflight := none, done := true, err := .ok } ∧
    exec .tblinit s = .next { s with tables := some builtTables, inflight := none, done := true, err := .ok }

/-- R76, R77: EXP holds the powers of α, LOG inverts it, and LOG[0] is the sentinel. R79: GEN[K] has K
coefficients, none of them the sentinel (R80), and x^K plus them has the roots α^0 to α^(K-1), which makes it
the product of the rule. The roots are an inference from the product. -/
def Obligations.TablesHoldPowersLogsAndGenerators : Prop :=
  builtTables.exp = (List.range 255).map alphaPow ∧ builtTables.log.length = 256 ∧
  (∀ i, i < 255 → builtTables.logAt (alphaPow i) = BitVec.ofNat 8 i ∧ alphaPow i ≠ 0) ∧
  builtTables.logAt 0 = 0xFF ∧
  builtTables.genAt 0 = [] ∧
  ∀ k, 1 ≤ k → k ≤ 30 → (builtTables.genAt k).length = k ∧ (∀ x ∈ builtTables.genAt k, x.toNat ≤ 254) ∧
    ∀ i, i < k → polyAt (1 :: generatorCoefs k) (alphaPow i) = 0

/-- R84: GFMUL gives the product of byte operands, and OperandRange for others. -/
def Obligations.GfmulGivesTheFieldProduct : Prop :=
  ∀ s : State, s.TablesInv →
    (s.argA.toNat ≤ 0xFF → s.argB.toNat ≤ 0xFF →
      exec .gfmul s = .next { s with
        res0 := (fieldProduct (s.argA.setWidth 8) (s.argB.setWidth 8)).setWidth 32
        tables := some builtTables, inflight := none, done := true, err := .ok }) ∧
    (0xFF < s.argA.toNat ∨ 0xFF < s.argB.toNat → exec .gfmul s = .next (failed s .operandRange))

/-- R85, R86: GFEXP of an index up to 254 gives the power; GFLOG of a byte gives the exponent of the element,
and the sentinel for 0; other operands give OperandRange. -/
def Obligations.GfexpAndGflogAreInverse : Prop :=
  ∀ s : State, s.TablesInv →
    (s.argA.toNat ≤ 254 →
      exec .gfexp s = .next { s with
        res0 := (alphaPow s.argA.toNat).setWidth 32
        tables := some builtTables, inflight := none, done := true, err := .ok }) ∧
    (s.argA.toNat ≤ 255 → ∃ x : Byte,
      exec .gflog s = .next { s with
        res0 := x.setWidth 32, tables := some builtTables, inflight := none, done := true, err := .ok } ∧
      (s.argA = 0 → x = 0xFF) ∧ (s.argA ≠ 0 → x.toNat ≤ 254 ∧ alphaPow x.toNat = s.argA.setWidth 8)) ∧
    (254 < s.argA.toNat → exec .gfexp s = .next (failed s .operandRange)) ∧
    (255 < s.argA.toNat → exec .gflog s = .next (failed s .operandRange))

/-- R87: GENRD of a degree 1 to 30 and an index below it gives the exponent and the coefficient, and
OperandRange for others. -/
def Obligations.GenrdGivesTheCoefficient : Prop :=
  ∀ s : State, s.TablesInv →
    (1 ≤ s.argA.toNat → s.argA.toNat ≤ 30 → s.argB.toNat < s.argA.toNat →
      exec .genrd s = .next { s with
        res0 := ((builtTables.genAt s.argA.toNat).getD s.argB.toNat 0).setWidth 32
        res1 := ((generatorCoefs s.argA.toNat).getD s.argB.toNat 0).setWidth 32
        tables := some builtTables, inflight := none, done := true, err := .ok }) ∧
    (s.argA.toNat = 0 ∨ 30 < s.argA.toNat ∨ s.argA.toNat ≤ s.argB.toNat →
      exec .genrd s = .next (failed s .operandRange))

/-- R101: CAPQ of a legal level, version and mode reports the figures R89, R94 and R95 print, and the greatest
length whose stream fits (R96, R108); the model's own figures are these; other fields give their errors in
order. The reference values of R93 and R96 stand first. The table of R94 is the spec's own inference, by
evaluation, and that the greatest length is the last whose stream fits is one too (R113) with its converse. -/
def Obligations.CapqReportsTheCapacities : Prop :=
  (dataCapacityBits 1 .l = 152 ∧ maxDataLength 1 .numeric .l = 41 ∧ maxDataLength 1 .alphanumeric .l = 25 ∧
    maxDataLength 1 .octet .l = 17) ∧
  (∀ (s : State) (ecc : BitVec 3) (ver : BitVec 6) (mode : BitVec 4),
    (mode.toNat ≠ 1 ∧ mode.toNat ≠ 2 ∧ mode.toNat ≠ 4 →
      exec (.capq ecc ver mode) s = .next (failed s .invalidMode)) ∧
    (mode.toNat = 1 ∨ mode.toNat = 2 ∨ mode.toNat = 4 → 3 < ecc.toNat →
      exec (.capq ecc ver mode) s = .next (failed s .invalidECCLevel)) ∧
    (mode.toNat = 1 ∨ mode.toNat = 2 ∨ mode.toNat = 4 → ecc.toNat ≤ 3 → ¬ IsVersion ver.toNat →
      exec (.capq ecc ver mode) s = .next (failed s .invalidVersion))) ∧
  ∀ (s : State) (ecc : BitVec 3) (ver : BitVec 6) (mode : BitVec 4) (e : Level) (mo : Mode),
    ecc.toNat = levelCode e → mode.toNat = modeCode mo → IsVersion ver.toNat →
      let v := ver.toNat
      let raw := tableEntry capacityTable v 0
      let tdb := tableEntry capacityTable v 1
      let d := tableEntry capacityTable v (2 + ecc.toNat)
      let k := tableEntry eccTable v ecc.toNat
      let b := tableEntry eccTable v (4 + ecc.toNat)
      let len := maxDataLength v mo e
      exec (.capq ecc ver mode) s = .next { s with
        res0 := BitVec.ofNat 32 (8 * d)
        res1 := BitVec.ofNat 32 len
        res2 := BitVec.ofNat 32 (lengthWidth v mo + 2 ^ 8 * k + 2 ^ 16 * b +
          2 ^ 24 * (alignTable.getD (v - 1) []).length)
        res3 := BitVec.ofNat 32 (tdb + 2 ^ 16 * raw)
        res4 := BitVec.ofNat 32 (4 * v + 17)
        inflight := none, done := true, err := .ok } ∧
      (∀ n, n ≤ len ↔ streamLength v mo n ≤ 8 * d) ∧
      rawModules v = raw ∧ totalDataBits v = tdb ∧ 8 * totalCodewords v = tdb ∧ dataCapacityBits v e = 8 * d ∧
      dataCodewords v e = d ∧ blockDegree v e = k ∧ blockCount v e = b ∧ lengthIndicatorBits v mo = lengthWidth v mo ∧
      alignPositions v = alignTable.getD (v - 1) []

/-- R102: BCHQ gives the codes R99 and R100 print; other fields give their errors in order. The printed codes
are the spec's own inference, by evaluation of R98. For every version the code is the version followed by 12
bits that make it a multiple of the generator 0x1F25, an inference from R98. -/
def Obligations.BchqGivesTheBchCodes : Prop :=
  ∀ (s : State) (ecc : BitVec 3) (ver : BitVec 6) (mask : BitVec 4),
    (ecc.toNat ≤ 3 → IsVersion ver.toNat → mask.toNat ≤ 7 →
      exec (.bchq ecc ver mask) s = .next { s with
        res0 := BitVec.ofNat 32 ((formatCodes.getD ecc.toNat []).getD mask.toNat 0)
        res1 := BitVec.ofNat 32 (versionCode ver.toNat)
        inflight := none, done := true, err := .ok } ∧
      versionCode ver.toNat / 2 ^ 12 = ver.toNat ∧
      (∃ q, q < 2 ^ 6 ∧ versionCode ver.toNat = binaryProduct q 0x1F25) ∧
      (7 ≤ ver.toNat → versionCode ver.toNat = versionCodes.getD (ver.toNat - 7) 0)) ∧
    (3 < ecc.toNat → exec (.bchq ecc ver mask) s = .next (failed s .invalidECCLevel)) ∧
    (ecc.toNat ≤ 3 → ¬ IsVersion ver.toNat → exec (.bchq ecc ver mask) s = .next (failed s .invalidVersion)) ∧
    (ecc.toNat ≤ 3 → IsVersion ver.toNat → 7 < mask.toNat →
      exec (.bchq ecc ver mask) s = .next (failed s .invalidMask))

/-- R114: VALIDATE of valid input reports the mode and length, and folds exactly the lowercase letters of
accepted alphanumeric input when FOLD was sampled 1. -/
def Obligations.ValidateReportsAndFolds : Prop :=
  ∀ (s : State) (mode : BitVec 4),
    mode.toNat = 0 ∨ mode.toNat = 1 ∨ mode.toNat = 2 ∨ mode.toNat = 4 → s.len.toNat ≤ 8192 →
    validFor (workingMode mode s.inputBytes) s.inputBytes s.sampledFold = true →
      ∃ t, exec (.validate mode) s = .next t ∧
        t = { completed s with
          res0 := BitVec.ofNat 32 (modeCode (workingMode mode s.inputBytes))
          res1 := BitVec.ofNat 32 s.len.toNat
          mem := t.mem, draws := t.draws } ∧
        ∀ a, t.mem.read a =
          if workingMode mode s.inputBytes = .alphanumeric ∧ s.sampledFold = true ∧ ibufBase ≤ a ∧
              a < ibufBase + s.len.toNat ∧ isLower (s.inputBytes.getD (a - ibufBase) 0) = true then
            some (s.inputBytes.getD (a - ibufBase) 0 - 0x20)
          else s.mem.read a

/-- R103, R105, R106: the 45-byte set, validity in each mode, folding, and the detected mode; the detected mode
accepts its input, and folding accepted alphanumeric input leaves only the set and leaves strictly valid input
as it is. -/
def Obligations.DetectionAndFoldingFollowTheRules : Prop :=
  (∀ b : Byte, isAlnum b = true ↔ b ∈ alnumOrder) ∧
  ∀ (data : List Byte) (f : Bool),
    (validFor .numeric data f = true ↔ ∀ b ∈ data, 0x30 ≤ b.toNat ∧ b.toNat ≤ 0x39) ∧
    (validFor .alphanumeric data f = true ↔
      ∀ b ∈ data, b ∈ alnumOrder ∨ (f = true ∧ 0x61 ≤ b.toNat ∧ b.toNat ≤ 0x7A)) ∧
    validFor .octet data f = true ∧
    foldFor .alphanumeric data true =
      data.map (fun b => if 0x61 ≤ b.toNat ∧ b.toNat ≤ 0x7A then b - 0x20 else b) ∧
    (∀ mo, mo ≠ .alphanumeric ∨ f = false → foldFor mo data f = data) ∧
    detectMode data =
      (if ∀ b ∈ data, 0x30 ≤ b.toNat ∧ b.toNat ≤ 0x39 then Mode.numeric
      else if ∀ b ∈ data, b ∈ alnumOrder then Mode.alphanumeric else Mode.octet) ∧
    validFor (detectMode data) data f = true ∧
    (validFor .alphanumeric data true = true → (foldFor .alphanumeric data true).all isAlnum = true) ∧
    ∀ mo, validFor mo data false = true → validFor mo data f = true ∧ foldFor mo data f = data

/-- R104, R108 to R111: the stream of valid data, bit by bit: mode indicator, length field, payload groups.
R113: data within the maximum length fills at most the capacity, so no payload bit is lost; the bound is the
spec's own inference. -/
def Obligations.AcceptedDataFitsItsCodewords : Prop :=
  ∀ (v : Nat) (mo : Mode) (e : Level) (data : List Byte), IsVersion v → data.length ≤ maxDataLength v mo e →
    (serialize v mo data).length = streamLength v mo data.length ∧
    (serialize v mo data).length ≤ dataCapacityBits v e ∧
    (validFor mo data false = true → serialize v mo data = streamOf v mo data)

/-- R115, R112: PACK of valid data that fits writes CWB[0 .. D-1] bit by bit as the rule says, and no other
byte. -/
def Obligations.PackWritesTheCodewords : Prop :=
  ∀ (s : State) (ecc : BitVec 3) (ver : BitVec 6) (mode : BitVec 4) (e : Level) (mo : Mode),
    ecc.toNat = levelCode e → mode.toNat = modeCode mo → IsVersion ver.toNat → s.len.toNat ≤ 8192 →
    validFor mo s.inputBytes false = true → s.len.toNat ≤ maxDataLength ver.toNat mo e →
      ∃ t, exec (.pack ecc ver mode) s = .next t ∧
        t = { completed s with
          res0 := BitVec.ofNat 32 (dataCodewords ver.toNat e)
          res1 := BitVec.ofNat 32 (streamLength ver.toNat mo s.len.toNat)
          mem := t.mem, draws := t.draws } ∧
        (∀ k, k < 8 * dataCodewords ver.toNat e → storedBit t.mem cwbBase k =
          some (codewordBit (streamOf ver.toNat mo s.inputBytes) (dataCodewords ver.toNat e) k)) ∧
        ∀ a, a < cwbBase ∨ cwbBase + dataCodewords ver.toNat e ≤ a → t.mem.read a = s.mem.read a

/-- R120: RSREM of operands in range writes the remainder to ECCB[0 .. K-1], and no other byte; other operands
give OperandRange. The streaming form is the spec's own inference (R117). -/
def Obligations.RsremWritesTheRemainder : Prop :=
  (∀ s : State, 4095 < s.argA.toNat ∨ 2 ^ 24 ≤ s.argB.toNat ∨ s.argB.toNat / 2 ^ 16 = 0 ∨
    30 < s.argB.toNat / 2 ^ 16 ∨ 4096 < s.argA.toNat + s.argB.toNat % 2 ^ 16 →
      exec .rsrem s = .next (failed s .operandRange)) ∧
  ∀ s : State, s.TablesInv → s.argA.toNat ≤ 4095 → s.argB.toNat < 2 ^ 24 →
    1 ≤ s.argB.toNat / 2 ^ 16 → s.argB.toNat / 2 ^ 16 ≤ 30 → s.argA.toNat + s.argB.toNat % 2 ^ 16 ≤ 4096 →
      ∃ t, exec .rsrem s = .next t ∧
        t = { completed s with
          res0 := BitVec.ofNat 32 (s.argB.toNat / 2 ^ 16)
          tables := some builtTables, mem := t.mem, draws := t.draws } ∧
        (∀ j, j < s.argB.toNat / 2 ^ 16 → t.mem.read (eccbBase + j) =
          (streamedRemainder (s.argB.toNat / 2 ^ 16)
            (s.readBytes (cwbBase + s.argA.toNat) (s.argB.toNat % 2 ^ 16)))[j]?) ∧
        ∀ a, a < eccbBase ∨ eccbBase + s.argB.toNat / 2 ^ 16 ≤ a → t.mem.read a = s.mem.read a

/-- R121, R118, R119: AUGMENT puts every data byte and every remainder byte at its place of ILB[0 .. T-1], and
writes no other byte; other fields give their errors in order. The remainders are stated in the streaming form,
the spec's own inference (R117). -/
def Obligations.AugmentInterleavesTheBlocks : Prop :=
  (∀ (s : State) (ecc : BitVec 3) (ver : BitVec 6),
    (3 < ecc.toNat → exec (.augment ecc ver) s = .next (failed s .invalidECCLevel)) ∧
    (ecc.toNat ≤ 3 → ¬ IsVersion ver.toNat → exec (.augment ecc ver) s = .next (failed s .invalidVersion))) ∧
  ∀ (s : State) (ecc : BitVec 3) (ver : BitVec 6) (e : Level), s.TablesInv → ecc.toNat = levelCode e →
    IsVersion ver.toNat →
      let d := dataCodewords ver.toNat e
      let b := blockCount ver.toNat e
      let k := blockDegree ver.toNat e
      let cw := s.readBytes cwbBase d
      let short := d / b
      let pivot := b - d % b
      let start := fun j => j * short + (j - pivot)
      let size := fun j => short + (if pivot ≤ j then 1 else 0)
      ∃ t, exec (.augment ecc ver) s = .next t ∧
        t = { completed s with
          res0 := BitVec.ofNat 32 (totalCodewords ver.toNat), res1 := BitVec.ofNat 32 b
          res2 := BitVec.ofNat 32 k, res3 := BitVec.ofNat 32 pivot
          tables := some builtTables, mem := t.mem, draws := t.draws } ∧
        (∀ i j, i < short → j < b → t.mem.read (ilbBase + i * b + j) = cw[start j + i]?) ∧
        (∀ j, pivot ≤ j → j < b → t.mem.read (ilbBase + short * b + (j - pivot)) = cw[start j + short]?) ∧
        (∀ i j, i < k → j < b → t.mem.read (ilbBase + d + i * b + j) =
          (streamedRemainder k ((cw.drop (start j)).take (size j)))[i]?) ∧
        ∀ a, a < ilbBase ∨ ilbBase + totalCodewords ver.toNat ≤ a → t.mem.read a = s.mem.read a

/-- R132, R128: BUILDBASE of a version writes the fixed patterns and the reserved mask of the square and makes
its other cells unwritten; cells outside the square and all buffers keep their values. VER 0 or above 40 gives
InvalidVersion. -/
def Obligations.BuildbaseWritesTheFixedPatterns : Prop :=
  (∀ (s : State) (ver : BitVec 6), ¬ IsVersion ver.toNat →
    exec (.buildbase ver) s = .next (failed s .invalidVersion)) ∧
  ∀ (s : State) (ver : BitVec 6), IsVersion ver.toNat →
    ∃ t, exec (.buildbase ver) s = .next t ∧
      t = { completed s with
        res0 := BitVec.ofNat 32 (4 * ver.toNat + 17), res1 := BitVec.ofNat 32 (rawModules ver.toNat)
        mver := ver, phase := .base, mem := t.mem } ∧
      (∀ r c, r < 4 * ver.toNat + 17 → c < 4 * ver.toNat + 17 →
        t.mem.read (cellAddr mtxBase r c) = (baseCell ver.toNat r c).map cellByte ∧
        t.mem.read (cellAddr rsvBase r c) = some (if (baseCell ver.toNat r c).isSome then 1 else 0)) ∧
      ∀ a, ¬ InMtxSquare (4 * ver.toNat + 17) a → ¬ InRsvSquare (4 * ver.toNat + 17) a →
        t.mem.read a = s.mem.read a

/-- R124 to R128: in every version each corner holds the 7 by 7 finder pattern of three concentric squares with
white around it, the format strips are white, the dark module is black, the timing cells alternate from black,
every alignment pattern is black but for its ring, the version blocks hold the code R100 prints, and RAW cells
are in no pattern. -/
def Obligations.FixedPatternsInEveryVersion : Prop :=
  ∀ v, IsVersion v →
    let n := 4 * v + 17
    let centres := alignTable.getD (v - 1) []
    let last := centres.length - 1
    (∀ r c, r ≤ 7 → c ≤ 7 →
      let ring := max (max r 3 - min r 3) (max c 3 - min c 3)
      let black := decide (ring ≠ 2 ∧ ring ≠ 4)
      baseCell v r c = some black ∧ baseCell v (n - 1 - r) c = some black ∧
        baseCell v r (n - 1 - c) = some black) ∧
    (∀ i, i ≤ 8 → i ≠ 6 → baseCell v 8 i = some false ∧ baseCell v i 8 = some false) ∧
    (∀ i, i ≤ 7 → baseCell v 8 (n - 1 - i) = some false ∧
      baseCell v (n - 1 - i) 8 = some (decide (i = 7))) ∧
    (∀ i, 8 ≤ i → i ≤ n - 9 → baseCell v 6 i = some (decide (i % 2 = 0)) ∧
      baseCell v i 6 = some (decide (i % 2 = 0))) ∧
    (∀ p q, p < centres.length → q < centres.length →
      ¬ ((p = 0 ∧ q = 0) ∨ (p = 0 ∧ q = last) ∨ (p = last ∧ q = 0)) →
      ∀ i j, i ≤ 4 → j ≤ 4 →
        baseCell v (centres.getD p 0 - 2 + i) (centres.getD q 0 - 2 + j) =
          some (decide (max (max i 2 - min i 2) (max j 2 - min j 2) ≠ 1))) ∧
    (7 ≤ v → ∀ i j, i ≤ 5 → j ≤ 2 →
      baseCell v i (n - 11 + j) = some ((versionCodes.getD (v - 7) 0).testBit (3 * i + j)) ∧
      baseCell v (n - 11 + j) i = some ((versionCodes.getD (v - 7) 0).testBit (3 * i + j))) ∧
    ((List.range n).map fun r => (List.range n).countP fun c => (baseCell v r c).isNone).sum =
      tableEntry capacityTable v 0

/-- R129: over any reserved mask that reserves column 6, the scan of a symbol yields exactly the cells with RSV
0, each once, in the order of their column pairs from the right edge, the first pair upward and the direction
alternating, the right cell of a row before the left one. -/
def Obligations.ScanVisitsEachFreeCellOnce : Prop :=
  ∀ (v : Nat) (rsv : List (List Bool)), IsVersion v →
    (∀ r, r < 4 * v + 17 → cellAt rsv r 6 = true) →
      (scanCells (4 * v + 17) rsv).Nodup ∧
      (scanCells (4 * v + 17) rsv).Pairwise (fun x y => scanRank (4 * v + 17) x < scanRank (4 * v + 17) y) ∧
      ∀ r c, (r, c) ∈ scanCells (4 * v + 17) rsv ↔ r < 4 * v + 17 ∧ c < 4 * v + 17 ∧ cellAt rsv r c = false

/-- R133, R130: PLACE gives the k-th scanned cell stream bit k of ILB, 0 beyond the codewords, and changes no
other byte or cell; with no base matrix it gives SequenceError. -/
def Obligations.PlaceFillsTheScannedCells : Prop :=
  (∀ s : State, s.phase = .empty → exec .place s = .next (failed s .sequenceError)) ∧
  ∀ s : State, s.phase ≠ .empty → s.version ≤ 40 →
    let t8 := 8 * totalCodewords s.version
    let buf := s.readBytes ilbBase (totalCodewords s.version)
    let cells := scanCells s.side s.reserved
    ∃ t, exec .place s = .next t ∧
      t = { completed s with
        res0 := BitVec.ofNat 32 cells.length, res1 := BitVec.ofNat 32 (min cells.length t8)
        phase := .placed, mem := t.mem, draws := t.draws } ∧
      (∀ k rc, cells[k]? = some rc → t.mem.read (cellAddr mtxBase rc.1 rc.2) =
        some (if k < t8 ∧ (buf.getD (k / 8) 0).getLsbD (7 - k % 8) = true then 1 else 0)) ∧
      ∀ a, (∀ rc ∈ cells, a ≠ cellAddr mtxBase rc.1 rc.2) → t.mem.read a = s.mem.read a

/-- R134: the eight mask functions. R145, R135: APPLYMASK XORs the data cells its mask selects and changes
nothing else; out of phase it gives SequenceError, and a mask above 7 gives InvalidMask. -/
def Obligations.ApplymaskFlipsTheMaskedDataCells : Prop :=
  (∀ i j : Nat,
    (maskAt 0 i j = true ↔ (i + j) % 2 = 0) ∧ (maskAt 1 i j = true ↔ i % 2 = 0) ∧
    (maskAt 2 i j = true ↔ j % 3 = 0) ∧ (maskAt 3 i j = true ↔ (i + j) % 3 = 0) ∧
    (maskAt 4 i j = true ↔ (i / 2 + j / 3) % 2 = 0) ∧
    (maskAt 5 i j = true ↔ i * j % 2 + i * j % 3 = 0) ∧
    (maskAt 6 i j = true ↔ (i * j % 2 + i * j % 3) % 2 = 0) ∧
    (maskAt 7 i j = true ↔ ((i + j) % 2 + i * j % 3) % 2 = 0)) ∧
  (∀ (s : State) (mask : BitVec 4),
    (s.phase = .empty ∨ s.phase = .base → exec (.applymask mask) s = .next (failed s .sequenceError)) ∧
    (s.phase = .placed ∨ s.phase = .final → 7 < mask.toNat →
      exec (.applymask mask) s = .next (failed s .invalidMask))) ∧
  ∀ (s : State) (mask : BitVec 4), s.phase = .placed ∨ s.phase = .final → s.version ≤ 40 → mask.toNat ≤ 7 →
    ∃ t, exec (.applymask mask) s = .next t ∧ t = { completed s with mem := t.mem } ∧
      (∀ r c, r < s.side → c < s.side → t.mem.read (cellAddr mtxBase r c) =
        if cellAt s.reserved r c = false ∧ maskAt mask.toNat r c = true then
          (s.mem.read (cellAddr mtxBase r c)).map (· ^^^ 1)
        else s.mem.read (cellAddr mtxBase r c)) ∧
      ∀ a, ¬ InMtxSquare s.side a → t.mem.read a = s.mem.read a

/-- R146, R136: WRITEFMT writes each bit of the format code to its two cells and changes no other; its errors
come in the rule's order. -/
def Obligations.WritefmtWritesBothStrips : Prop :=
  (∀ (s : State) (ecc : BitVec 3) (mask : BitVec 4),
    (s.phase = .empty → exec (.writefmt ecc mask) s = .next (failed s .sequenceError)) ∧
    (s.phase ≠ .empty → 3 < ecc.toNat → exec (.writefmt ecc mask) s = .next (failed s .invalidECCLevel)) ∧
    (s.phase ≠ .empty → ecc.toNat ≤ 3 → 7 < mask.toNat →
      exec (.writefmt ecc mask) s = .next (failed s .invalidMask))) ∧
  ∀ (s : State) (ecc : BitVec 3) (mask : BitVec 4), s.phase ≠ .empty → IsVersion s.version →
    ecc.toNat ≤ 3 → mask.toNat ≤ 7 →
      let n := s.side
      let code := (formatCodes.getD ecc.toNat []).getD mask.toNat 0
      let rows := [0, 1, 2, 3, 4, 5, 7, 8, n - 7, n - 6, n - 5, n - 4, n - 3, n - 2, n - 1]
      let cols := [n - 1, n - 2, n - 3, n - 4, n - 5, n - 6, n - 7, n - 8, 7, 5, 4, 3, 2, 1, 0]
      ∃ t, exec (.writefmt ecc mask) s = .next t ∧
        t = { completed s with res0 := BitVec.ofNat 32 code, mem := t.mem } ∧
        (∀ b, b < 15 →
          t.mem.read (cellAddr mtxBase (rows.getD b 0) 8) = some (if code.testBit b then 1 else 0) ∧
          t.mem.read (cellAddr mtxBase 8 (cols.getD b 0)) = some (if code.testBit b then 1 else 0)) ∧
        ∀ a, ¬ IsFormatCell n a → t.mem.read a = s.mem.read a

/-- R147, R138 to R142: SCORE writes the four penalties and their sum and changes no cell; out of phase it gives
SequenceError. -/
def Obligations.ScoreReportsTheFourPenalties : Prop :=
  (∀ s : State, s.phase = .empty ∨ s.phase = .base → exec .score s = .next (failed s .sequenceError)) ∧
  ∀ s : State, s.phase = .placed ∨ s.phase = .final →
    let n := s.side
    let a := overLines n s.matrix runPenaltyA
    let b := blockPenalty n s.matrix
    let c := overLines n s.matrix runPenaltyC
    let d := balancePenalty n s.matrix
    ∃ t, exec .score s = .next t ∧
      t = { completed s with
        res0 := BitVec.ofNat 32 (a + b + c + d), res1 := BitVec.ofNat 32 a, res2 := BitVec.ofNat 32 b
        res3 := BitVec.ofNat 32 c, res4 := BitVec.ofNat 32 d, draws := t.draws }

/-- R137: the run list describes its line, has odd length, starts with a white run of 0, and its inner runs are
not empty, so every run is maximal. -/
def Obligations.RunListDescribesItsLine : Prop :=
  ∀ line : List Bool,
    lineOfRuns false (runs line) = line ∧ (runs line).length % 2 = 1 ∧ (runs line).getD 0 1 = 0 ∧
    ∀ i, 2 ≤ i → i + 1 < (runs line).length → 0 < (runs line).getD i 0

/-- R140: penalty (b) is 3 for every 2 by 2 block of one colour. -/
def Obligations.PenaltyBCountsTheBlocks : Prop :=
  ∀ (n : Nat) (g : List (List Bool)), IsGrid n g → penaltyB g = blockPenalty n g

/-- R141: penalty (d) is 10 times the floor of the formula in exact rational arithmetic. The rational form is
the spec's own inference. -/
def Obligations.PenaltyDIsExact : Prop :=
  ∀ bk nn : Nat, 0 < nn → bk ≤ nn →
    darkPenalty bk nn = 10 * Nat.floor (|(bk : ℚ) / nn - 1 / 2| / (1 / 20))

/-- R148, R144: a forced SELECT commits the mask and its format information and leaves the scoreboard alone. -/
def Obligations.ForcedSelectCommitsTheMask : Prop :=
  ∀ (s : State) (ecc : BitVec 3) (mask : BitVec 4) (e : Level), s.phase = .placed → IsVersion s.version →
    ecc.toNat = levelCode e → mask.toNat ≤ 7 →
      ∃ t, exec (.select ecc mask) s = .next t ∧
        t = { completed s with
          res0 := BitVec.ofNat 32 mask.toNat, res1 := 0xFFFFFFFF, phase := .final, mem := t.mem } ∧
        (∀ r c, r < s.side → c < s.side → t.mem.read (cellAddr mtxBase r c) =
          match formatBitAt s.side (printedFormat e mask.toNat) r c with
          | some bit => some (cellByte bit)
          | none =>
            if cellAt s.reserved r c = false ∧ maskAt mask.toNat r c = true then
              (s.mem.read (cellAddr mtxBase r c)).map (· ^^^ 1)
            else s.mem.read (cellAddr mtxBase r c)) ∧
        ∀ a, ¬ InMtxSquare s.side a → t.mem.read a = s.mem.read a

/-- R148, R143: an automatic SELECT scores the eight trials into SB0 to SB7, chooses the least mask with the
least score, and commits it. -/
def Obligations.AutomaticSelectCommitsTheBestMask : Prop :=
  ∀ (s : State) (ecc : BitVec 3) (e : Level), s.phase = .placed → IsVersion s.version →
    ecc.toNat = levelCode e →
      ∃ t best, exec (.select ecc 15) s = .next t ∧ best < 8 ∧
        t = { completed s with
          res0 := BitVec.ofNat 32 best, res1 := t.sb.toList.getD best 0, sb := t.sb, phase := .final
          mem := t.mem, draws := t.draws } ∧
        (∀ m, m < 8 → t.sb.toList.getD m 0 =
          BitVec.ofNat 32 (ruleScore s.side (trialGrid s (printedFormat e m) m))) ∧
        (∀ m, m < 8 → (t.sb.toList.getD best 0).toNat ≤ (t.sb.toList.getD m 0).toNat ∧
          (m < best → (t.sb.toList.getD best 0).toNat < (t.sb.toList.getD m 0).toNat)) ∧
        (∀ r c, r < s.side → c < s.side → t.mem.read (cellAddr mtxBase r c) =
          match formatBitAt s.side (printedFormat e best) r c with
          | some bit => some (cellByte bit)
          | none =>
            if cellAt s.reserved r c = false ∧ maskAt best r c = true then
              (s.mem.read (cellAddr mtxBase r c)).map (· ^^^ 1)
            else s.mem.read (cellAddr mtxBase r c)) ∧
        ∀ a, ¬ InMtxSquare s.side a → t.mem.read a = s.mem.read a

/-- R151: GENERATE of valid data that fits, its version forced or the least that fits, completes with the mask,
score, version, mode and codeword count; CWB holds the codewords; IBUF, ECCB and everything outside the
codewords and the square keep their values; every cell of the square holds a value. -/
def Obligations.GenerateBuildsTheSymbol : Prop :=
  ∀ (s : State) (ecc : BitVec 3) (ver : BitVec 6) (mode mask : BitVec 4) (e : Level) (v : Nat),
    let mo := workingMode mode s.inputBytes
    s.TablesInv → GenerateAccepts s ecc ver mode mask e v →
      let n := 4 * v + 17
      let data := foldedInput s mo
      ∃ t, exec (.generate ecc ver mode mask) s = .next t ∧
        t = { completed s with
          res0 := t.res0, res1 := t.res1, res2 := BitVec.ofNat 32 v, res3 := BitVec.ofNat 32 (modeCode mo)
          res4 := BitVec.ofNat 32 (totalCodewords v), sb := t.sb, tables := some builtTables
          mver := BitVec.ofNat 6 v, phase := .final, mem := t.mem, draws := t.draws } ∧
        (mask.toNat ≤ 7 → t.res0.toNat = mask.toNat ∧ t.res1 = 0xFFFFFFFF ∧ t.sb = s.sb) ∧
        (mask.toNat = 15 → t.res0.toNat < 8 ∧ t.res1 = t.sb.toList.getD t.res0.toNat 0 ∧
          ∀ m, m < 8 → t.res1.toNat ≤ (t.sb.toList.getD m 0).toNat) ∧
        (∀ k, k < 8 * dataCodewords v e → storedBit t.mem cwbBase k =
          some (codewordBit (streamOf v mo data) (dataCodewords v e) k)) ∧
        (∀ r c, r < n → c < n → (t.mem.read (cellAddr mtxBase r c)).isSome = true ∧
          t.mem.read (cellAddr rsvBase r c) = some (if (baseCell v r c).isSome then 1 else 0)) ∧
        ∀ a, a < cwbBase ∨ cwbBase + dataCodewords v e ≤ a → a < ilbBase ∨ ilbBase + totalCodewords v ≤ a →
          ¬ InMtxSquare n a → ¬ InRsvSquare n a → t.mem.read a = s.mem.read a

/-- R152: GENERATE leaves what PACK, AUGMENT, BUILDBASE, PLACE and SELECT leave one after the other, in the mode
and version it resolves, from the state whose IBUF holds the folded data; IBUF itself it leaves alone. With data
that needs no folding and a named version and mode both leave the same memory from the same state. -/
def Obligations.GenerateIsTheSequenceOfCommands : Prop :=
  (∀ (s : State) (ecc : BitVec 3) (ver : BitVec 6) (mode mask : BitVec 4) (e : Level) (v : Nat),
    s.TablesInv → GenerateAccepts s ecc ver mode mask e v →
      let mo := workingMode mode s.inputBytes
      let folded : State := { s with mem := s.mem.writeBytes ibufBase (foldedInput s mo) }
      let ver' := BitVec.ofNat 6 v
      ∃ t1 t2 t3 t4 t5 t,
        exec (.pack ecc ver' (BitVec.ofNat 4 (modeCode mo))) folded = .next t1 ∧
        exec (.augment ecc ver') t1 = .next t2 ∧ exec (.buildbase ver') t2 = .next t3 ∧
        exec .place t3 = .next t4 ∧ exec (.select ecc mask) t4 = .next t5 ∧
        exec (.generate ecc ver mode mask) s = .next t ∧
        (∀ a, t.mem.read a = if ibufBase ≤ a ∧ a < ibufBase + s.len.toNat then s.mem.read a else t5.mem.read a) ∧
        t.mver = t5.mver ∧ t.phase = t5.phase ∧ t.sb = t5.sb ∧ t.tables = t5.tables ∧
        t.res0 = t5.res0 ∧ t.res1 = t5.res1 ∧ t.err = .ok ∧ t5.err = .ok) ∧
  ∀ (s : State) (ecc : BitVec 3) (ver : BitVec 6) (mode mask : BitVec 4) (e : Level) (mo : Mode),
    s.TablesInv → ecc.toNat = levelCode e → mode.toNat = modeCode mo → IsVersion ver.toNat → s.len.toNat ≤ 8192 →
    validFor mo s.inputBytes false = true → s.len.toNat ≤ maxDataLength ver.toNat mo e →
    mask.toNat ≤ 7 ∨ mask.toNat = 15 →
      ∃ t1 t2 t3 t4 t5 t,
        exec (.pack ecc ver mode) s = .next t1 ∧ exec (.augment ecc ver) t1 = .next t2 ∧
        exec (.buildbase ver) t2 = .next t3 ∧ exec .place t3 = .next t4 ∧
        exec (.select ecc mask) t4 = .next t5 ∧ exec (.generate ecc ver mode mask) s = .next t ∧
        t.mem = t5.mem ∧ t.mver = t5.mver ∧ t.phase = t5.phase ∧ t.sb = t5.sb ∧ t.tables = t5.tables ∧
        t.res0 = t5.res0 ∧ t.res1 = t5.res1 ∧ t.err = .ok ∧ t5.err = .ok

/-- R59, R36, R37: what the engine reads. A byte of a buffer range is the stored byte, or if unwritten a free
value of its own (log 4); a cell of the square is the stored cell, for MTX in every state a run reaches (log 9). -/
def Obligations.EngineReadsFollowMemory : Prop :=
  ∀ s : State,
    (∀ a n, (s.readBytes a n).length = n ∧ ∀ i, i < n →
      (s.readBytes a n)[i]? = some ((s.mem.read (a + i)).getD ((Config.freeValue (s.draws + i)).setWidth 8))) ∧
    s.inputBytes = s.readBytes 0x2000 s.len.toNat ∧ s.side = 4 * s.version + 17 ∧
    IsGrid s.side s.matrix ∧ IsGrid s.side s.reserved ∧
    ∀ r c b, r < s.side → c < s.side →
      (s.mem.read (0x10000 + 256 * r + c) = some b → cellAt s.matrix r c = b.getLsbD 0) ∧
      (s.mem.read (0x20000 + 256 * r + c) = some b → cellAt s.reserved r c = b.getLsbD 0)
end

