-- ==== Sys2Proof/Laws/Memory.lean ====
section
/-! SUPPORT. What the memory operations of Machine/Ops.lean do, said once through the read of one byte, and
that each keeps the canonical form. -/

namespace Sys2Proof.Machine

/-- The byte memory lists at an offset. -/
def Memory.listed (m : Memory) (a : Nat) : Option Byte := (m.find? (fun e => e.1 == a)).map (·.2)

theorem Memory.read_eq_listed (m : Memory) (a : Nat) : m.read a = (m.listed a).or (unlisted a) := by
  unfold Memory.read Memory.listed
  cases m.find? (fun e => e.1 == a) <;> rfl

@[simp] theorem Memory.read_nil (a : Nat) : Memory.read [] a = unlisted a := rfl

theorem Memory.listed_cons (e : Host.Cell) (m : Memory) (a : Nat) :
    Memory.listed (e :: m) a = if e.1 = a then some e.2 else m.listed a := by
  unfold Memory.listed
  by_cases h : e.1 = a <;> simp [h]

theorem Memory.listed_append (m m' : Memory) (a : Nat) :
    Memory.listed (m ++ m') a = (m.listed a).or (m'.listed a) := by
  induction m with
  | nil => rfl
  | cons e m ih =>
    rw [List.cons_append, Memory.listed_cons, Memory.listed_cons, ih]
    split <;> simp

theorem Memory.listed_filter (m : Memory) (p : Nat → Bool) (a : Nat) :
    Memory.listed (m.filter fun e => p e.1) a = if p a then m.listed a else none := by
  induction m with
  | nil => simp [Memory.listed]
  | cons e m ih =>
    by_cases hp : p e.1 = true
    · rw [List.filter_cons_of_pos (by simpa using hp), Memory.listed_cons, Memory.listed_cons, ih]
      by_cases he : e.1 = a
      · subst he; simp [hp]
      · simp [he]
    · rw [List.filter_cons_of_neg (by simpa using hp), Memory.listed_cons, ih]
      by_cases he : e.1 = a
      · subst he; simp [hp]
      · simp [he]

/-! ## Slices -/

/-- A slice is the reads of its offsets. -/
theorem Memory.slice_eq (m : Memory) (a n : Nat) : m.slice a n = (List.range' a n).map m.read := by
  unfold Memory.slice
  refine List.map_congr_left fun x hx => ?_
  have hx' : a ≤ x ∧ x < a + n := by simpa [List.mem_range'_1] using hx
  rw [Memory.read_eq_listed, Memory.read_eq_listed,
    Memory.listed_filter m (fun x => decide (a ≤ x) && decide (x < a + n))]
  simp [hx']

@[simp] theorem Memory.length_slice (m : Memory) (a n : Nat) : (m.slice a n).length = n := by
  simp [Memory.slice_eq]

theorem Memory.getElem?_slice (m : Memory) (a n i : Nat) (h : i < n) :
    (m.slice a n)[i]? = some (m.read (a + i)) := by
  simp [Memory.slice_eq, h]

/-! ## Ranges -/

theorem Memory.listed_entries (a : Nat) (vs : List (Option Byte)) (x : Nat) :
    (Memory.entries a vs).listed x =
      if a ≤ x ∧ x < a + vs.length then
        (vs.getD (x - a) none).filter fun b => decide (unlisted x ≠ some b)
      else none := by
  induction vs generalizing a with
  | nil => simp [Memory.entries, Memory.listed]
  | cons v vs ih =>
    have key : ∀ y : Option Byte, (if a = x then y else (Memory.entries (a + 1) vs).listed x) =
        (if a ≤ x ∧ x < a + (v :: vs).length then
          (if a = x then y else
            ((v :: vs).getD (x - a) none).filter fun b => decide (unlisted x ≠ some b)) else none) := by
      intro y
      by_cases h : a = x
      · subst h; simp
      · rw [if_neg h, ih, if_neg h]
        by_cases h2 : a ≤ x
        · obtain ⟨d, hd⟩ : ∃ d, x - a = d + 1 := ⟨x - a - 1, by omega⟩
          have : x - (a + 1) = d := by omega
          simp only [List.length_cons, hd, this, List.getD_cons_succ]
          by_cases h3 : x < a + (vs.length + 1)
          · rw [if_pos (by omega), if_pos (by omega)]
          · rw [if_neg (by omega), if_neg (by omega)]
        · rw [if_neg (by omega), if_neg (by omega)]
    cases v with
    | none =>
      have := key none
      by_cases h : a = x
      · subst h
        rw [Memory.entries, ih]
        simp
      · rw [if_neg h] at this
        rw [Memory.entries, this]
        simp [h]
    | some b =>
      by_cases hb : unlisted a = some b
      · by_cases h : a = x
        · subst h
          rw [Memory.entries, if_pos hb, ih]
          simp [hb, Option.filter]
        · have := key none
          rw [if_neg h] at this
          rw [Memory.entries, if_pos hb, this]
          simp [h]
      · rw [Memory.entries, if_neg hb, Memory.listed_cons]
        by_cases h : a = x
        · subst h; simp [hb, Option.filter]
        · have := key none
          rw [if_neg h] at this
          simp only [if_neg h]
          rw [this]
          simp [h]

/-- Reading after a range is set: the new content inside it (0 where an RSV cell or an unused offset is told to
be unwritten), the old content outside it. -/
theorem Memory.read_setRange (m : Memory) (a : Nat) (vs : List (Option Byte)) (x : Nat) :
    (m.setRange a vs).read x =
      if a ≤ x ∧ x < a + vs.length then (vs.getD (x - a) none).or (unlisted x) else m.read x := by
  unfold Memory.setRange
  rw [Memory.read_eq_listed, Memory.listed_append, Memory.listed_append,
    Memory.listed_filter m (fun y => decide (y < a)),
    Memory.listed_filter m (fun y => decide (a + vs.length ≤ y)), Memory.listed_entries,
    Memory.read_eq_listed]
  by_cases h : a ≤ x ∧ x < a + vs.length
  · have h1 : ¬ x < a := by omega
    have h2 : ¬ a + vs.length ≤ x := by omega
    simp only [h, h1, h2, decide_false, and_self, if_true, Bool.false_eq_true, if_false]
    cases vs.getD (x - a) none with
    | none => simp
    | some b => by_cases hb : unlisted x = some b <;> simp [Option.filter, hb]
  · rw [if_neg h, if_neg h]
    by_cases h1 : x < a
    · have h2 : ¬ a + vs.length ≤ x := by omega
      simp [h1, h2]
    · have h2 : a + vs.length ≤ x := by omega
      simp [h1, h2]

/-- A stored byte reads back. -/
theorem Memory.read_write_same (m : Memory) (a : Nat) (b : Byte) : (m.write a b).read a = some b := by
  simp [Memory.write, Memory.read_setRange]

/-- A store leaves every other offset alone. -/
theorem Memory.read_write_other (m : Memory) (a x : Nat) (b : Byte) (h : x ≠ a) :
    (m.write a b).read x = m.read x := by
  have : ¬ (a ≤ x ∧ x < a + 1) := by omega
  simp only [Memory.write, Memory.read_setRange, List.length_singleton, if_neg this]

/-- Reading after consecutive bytes are stored. -/
theorem Memory.read_writeBytes (m : Memory) (a : Nat) (bs : List Byte) (x : Nat) :
    (m.writeBytes a bs).read x =
      if a ≤ x ∧ x < a + bs.length then some (bs.getD (x - a) 0) else m.read x := by
  rw [Memory.writeBytes, Memory.read_setRange, List.length_map]
  split
  · rename_i h
    have hl : x - a < bs.length := by omega
    simp [List.getD_eq_getElem?_getD, List.getElem?_map, List.getElem?_eq_getElem hl]
  · rfl

/-! ## Squares -/

/-- Reading after one row of a square is rewritten. -/
theorem Memory.read_mapRow (m : Memory) (base n : Nat) (f : Nat → Nat → Option Byte → Option Byte) (r x : Nat) :
    (m.mapRow base n f r).read x =
      if cellAddr base r 0 ≤ x ∧ x < cellAddr base r 0 + n then
        (f r (x - cellAddr base r 0) (m.read x)).or (unlisted x)
      else m.read x := by
  rw [Memory.mapRow, Memory.read_setRange, List.length_mapIdx, Memory.length_slice]
  split
  · rename_i h
    have hl : x - cellAddr base r 0 < n := by omega
    have hx : cellAddr base r 0 + (x - cellAddr base r 0) = x := by omega
    simp [List.getD_eq_getElem?_getD, List.getElem?_mapIdx, Memory.getElem?_slice _ _ _ _ hl, hx]
  · rfl

theorem Memory.read_mapRows (m : Memory) (base n k : Nat) (f : Nat → Nat → Option Byte → Option Byte) (x : Nat)
    (hn : n ≤ 256) :
    ((List.range k).foldl (Memory.mapRow base n f) m).read x =
      if base ≤ x ∧ (x - base) / 256 < k ∧ (x - base) % 256 < n then
        (f ((x - base) / 256) ((x - base) % 256) (m.read x)).or (unlisted x)
      else m.read x := by
  induction k with
  | zero => simp
  | succ k ih =>
    rw [List.range_succ, List.foldl_append, List.foldl_cons, List.foldl_nil, Memory.read_mapRow, ih]
    by_cases h : cellAddr base k 0 ≤ x ∧ x < cellAddr base k 0 + n
    · unfold cellAddr at h
      have h1 : (x - base) / 256 = k := by omega
      have h2 : (x - base) % 256 < n := by omega
      have h3 : x - cellAddr base k 0 = (x - base) % 256 := by unfold cellAddr; omega
      have h4 : base ≤ x := by omega
      rw [if_pos (by unfold cellAddr; omega), if_neg (by omega), if_pos ⟨h4, by omega, h2⟩, h3, h1]
    · unfold cellAddr at h
      rw [if_neg (by unfold cellAddr; omega)]
      by_cases h5 : base ≤ x ∧ (x - base) / 256 < k ∧ (x - base) % 256 < n
      · rw [if_pos h5, if_pos ⟨h5.1, by omega, h5.2.2⟩]
      · rw [if_neg h5, if_neg]
        rintro ⟨h6, h7, h8⟩
        omega

/-- Reading after a square is rewritten cell by cell: a cell of the square, and any other offset. -/
theorem Memory.read_mapSquare (m : Memory) (base n : Nat) (f : Nat → Nat → Option Byte → Option Byte) (x : Nat)
    (hn : n ≤ 256) :
    (m.mapSquare base n f).read x =
      if base ≤ x ∧ (x - base) / 256 < n ∧ (x - base) % 256 < n then
        (f ((x - base) / 256) ((x - base) % 256) (m.read x)).or (unlisted x)
      else m.read x :=
  Memory.read_mapRows m base n n f x hn

/-- Reading a cell of a rewritten square. -/
theorem Memory.read_mapSquare_cell (m : Memory) (base n : Nat) (f : Nat → Nat → Option Byte → Option Byte)
    (r c : Nat) (hn : n ≤ 256) (hr : r < n) (hc : c < n) :
    (m.mapSquare base n f).read (cellAddr base r c) =
      (f r c (m.read (cellAddr base r c))).or (unlisted (cellAddr base r c)) := by
  have h1 : (cellAddr base r c - base) / 256 = r := by unfold cellAddr; omega
  have h2 : (cellAddr base r c - base) % 256 = c := by unfold cellAddr; omega
  rw [Memory.read_mapSquare _ _ _ _ _ hn, if_pos ⟨by unfold cellAddr; omega, by omega, by omega⟩, h1, h2]

/-! ## The canonical form -/

theorem Memory.entries_range (a : Nat) (vs : List (Option Byte)) :
    ∀ e ∈ Memory.entries a vs, a ≤ e.1 ∧ e.1 < a + vs.length := by
  induction vs generalizing a with
  | nil => simp [Memory.entries]
  | cons v vs ih =>
    intro e he
    have tail : e ∈ Memory.entries (a + 1) vs → a ≤ e.1 ∧ e.1 < a + (v :: vs).length := fun h => by
      have := ih (a + 1) e h
      simp only [List.length_cons]; omega
    cases v with
    | none => exact tail he
    | some b =>
      rw [Memory.entries] at he
      split at he
      · exact tail he
      · rcases List.mem_cons.mp he with rfl | h
        · simp
        · exact tail h

theorem Memory.entries_wf (a : Nat) (vs : List (Option Byte)) : (Memory.entries a vs).wf := by
  induction vs generalizing a with
  | nil => exact ⟨List.Pairwise.nil, by simp [Memory.entries]⟩
  | cons v vs ih =>
    cases v with
    | none => exact ih (a + 1)
    | some b =>
      rw [Memory.entries]
      split
      · exact ih (a + 1)
      · rename_i hb
        refine ⟨List.pairwise_cons.mpr ⟨fun e he => ?_, (ih (a + 1)).1⟩, fun e he => ?_⟩
        · have := Memory.entries_range (a + 1) vs e he; omega
        · rcases List.mem_cons.mp he with rfl | h
          · exact hb
          · exact (ih (a + 1)).2 e h

/-- Setting a range keeps the canonical form. -/
theorem Memory.setRange_wf (m : Memory) (h : m.wf) (a : Nat) (vs : List (Option Byte)) : (m.setRange a vs).wf := by
  have he := Memory.entries_range a vs
  have hw := Memory.entries_wf a vs
  refine ⟨?_, ?_⟩
  · unfold Memory.setRange
    refine List.pairwise_append.mpr ⟨List.pairwise_append.mpr ⟨h.1.filter _, hw.1, ?_⟩, h.1.filter _, ?_⟩
    · intro x hx y hy
      have := (List.mem_filter.mp hx).2
      have := he y hy
      simp at *; omega
    · intro x hx y hy
      have hy' := (List.mem_filter.mp hy).2
      rcases List.mem_append.mp hx with hx | hx
      · have := (List.mem_filter.mp hx).2
        simp at *; omega
      · have := he x hx
        simp at *; omega
  · intro e hem
    unfold Memory.setRange at hem
    rcases List.mem_append.mp hem with hem | hem
    · rcases List.mem_append.mp hem with hem | hem
      · exact h.2 e (List.mem_filter.mp hem).1
      · exact hw.2 e hem
    · exact h.2 e (List.mem_filter.mp hem).1

theorem Memory.write_wf (m : Memory) (h : m.wf) (a : Nat) (b : Byte) : (m.write a b).wf :=
  m.setRange_wf h a _

theorem Memory.writeBytes_wf (m : Memory) (h : m.wf) (a : Nat) (bs : List Byte) : (m.writeBytes a bs).wf :=
  m.setRange_wf h a _

theorem Memory.mapRow_wf (m : Memory) (h : m.wf) (base n : Nat) (f : Nat → Nat → Option Byte → Option Byte) (r : Nat) :
    (m.mapRow base n f r).wf :=
  m.setRange_wf h _ _

/-- Rewriting a square keeps the canonical form. -/
theorem Memory.mapSquare_wf (m : Memory) (h : m.wf) (base n : Nat) (f : Nat → Nat → Option Byte → Option Byte) :
    (m.mapSquare base n f).wf := by
  unfold Memory.mapSquare
  generalize List.range n = rows
  induction rows generalizing m with
  | nil => exact h
  | cons r rows ih => exact ih _ (m.mapRow_wf h base n f r)

/-- The memory of the reset state is in canonical form. -/
theorem reset_mem_wf : State.reset.mem.wf := ⟨List.Pairwise.nil, by simp [State.reset]⟩

/-- Two canonical memories that read alike are equal data. -/
theorem Memory.ext_read (m m' : Memory) (h : m.wf) (h' : m'.wf) (hr : ∀ a, m.read a = m'.read a) : m = m' := by
  have hm : ∀ (l l' : Memory), l.wf → l'.wf → (∀ a, l.read a = l'.read a) → ∀ e ∈ l, e ∈ l' := by
    intro l l' hl _ hrd e he
    have h1 : l.listed e.1 = some e.2 := by
      have : ∀ (k : Memory), k.Pairwise (fun e e' => e.1 < e'.1) → e ∈ k → k.listed e.1 = some e.2 := by
        intro k
        induction k with
        | nil => simp
        | cons d k ih =>
          intro hp hk
          rw [Memory.listed_cons]
          rcases List.mem_cons.mp hk with rfl | hk
          · simp
          · have := (List.pairwise_cons.mp hp).1 e hk
            rw [if_neg (by omega)]
            exact ih (List.pairwise_cons.mp hp).2 hk
      exact this l hl.1 he
    have h2 := hrd e.1
    rw [Memory.read_eq_listed, Memory.read_eq_listed, h1, Option.some_or] at h2
    cases h3 : l'.listed e.1 with
    | none => rw [h3, Option.none_or] at h2; exact absurd h2.symm (hl.2 e he)
    | some b =>
      rw [h3, Option.some_or] at h2
      unfold Memory.listed at h3
      obtain ⟨d, hd, hb⟩ := Option.map_eq_some_iff.mp h3
      have hd1 := List.mem_of_find?_eq_some hd
      have hd2 := List.find?_some hd
      have : d = e := Prod.ext (by simpa using hd2) (by simpa [hb] using h2.symm)
      exact this ▸ hd1
  have hs : ∀ (l : Memory), l.wf → l.Nodup := fun l hl =>
    hl.1.imp (fun {a b} hab heq => by rw [heq] at hab; omega)
  refine List.Perm.eq_of_pairwise (le := fun e e' : Host.Cell => e.1 < e'.1) ?_ h.1 h'.1
    ((List.perm_ext_iff_of_nodup (hs m h) (hs m' h')).mpr fun e =>
      ⟨hm m m' h h' hr e, hm m' m h' h (fun a => (hr a).symm) e⟩)
  intro a b _ _ hab hba
  omega

end Sys2Proof.Machine
end

