-- ==== Sys2Proof/Laws/State.lean ====
section
/-! SUPPORT. Beside each shared update of a state, what every field is after it. -/

namespace Sys2Proof.Machine

theorem State.raise_eq (s : State) (e : ErrCode) : s.raise e = s.complete e := rfl
theorem State.finish_eq (s : State) : s.finish = s.complete .ok := rfl

/-! ### Completion (R160) -/

@[simp] theorem State.complete_cmd (s : State) (c : ErrCode) : (s.complete c).cmd = s.cmd := rfl
@[simp] theorem State.complete_inflight (s : State) (c : ErrCode) : (s.complete c).inflight = none := rfl
@[simp] theorem State.complete_done (s : State) (c : ErrCode) : (s.complete c).done = true := rfl
@[simp] theorem State.complete_err (s : State) (c : ErrCode) : (s.complete c).err = c := rfl
@[simp] theorem State.complete_ovr (s : State) (c : ErrCode) : (s.complete c).ovr = s.ovr := rfl
@[simp] theorem State.complete_accerr (s : State) (c : ErrCode) : (s.complete c).accerr = s.accerr := rfl
@[simp] theorem State.complete_ie (s : State) (c : ErrCode) : (s.complete c).ie = s.ie := rfl
@[simp] theorem State.complete_fold (s : State) (c : ErrCode) : (s.complete c).fold = s.fold := rfl
@[simp] theorem State.complete_len (s : State) (c : ErrCode) : (s.complete c).len = s.len := rfl
@[simp] theorem State.complete_argA (s : State) (c : ErrCode) : (s.complete c).argA = s.argA := rfl
@[simp] theorem State.complete_argB (s : State) (c : ErrCode) : (s.complete c).argB = s.argB := rfl
@[simp] theorem State.complete_res0 (s : State) (c : ErrCode) : (s.complete c).res0 = s.res0 := rfl
@[simp] theorem State.complete_res1 (s : State) (c : ErrCode) : (s.complete c).res1 = s.res1 := rfl
@[simp] theorem State.complete_res2 (s : State) (c : ErrCode) : (s.complete c).res2 = s.res2 := rfl
@[simp] theorem State.complete_res3 (s : State) (c : ErrCode) : (s.complete c).res3 = s.res3 := rfl
@[simp] theorem State.complete_res4 (s : State) (c : ErrCode) : (s.complete c).res4 = s.res4 := rfl
@[simp] theorem State.complete_sb (s : State) (c : ErrCode) : (s.complete c).sb = s.sb := rfl
@[simp] theorem State.complete_mver (s : State) (c : ErrCode) : (s.complete c).mver = s.mver := rfl
@[simp] theorem State.complete_phase (s : State) (c : ErrCode) : (s.complete c).phase = s.phase := rfl
@[simp] theorem State.complete_tables (s : State) (c : ErrCode) : (s.complete c).tables = s.tables := rfl
@[simp] theorem State.complete_mem (s : State) (c : ErrCode) : (s.complete c).mem = s.mem := rfl
@[simp] theorem State.complete_inReset (s : State) (c : ErrCode) : (s.complete c).inReset = s.inReset := rfl
@[simp] theorem State.complete_turns (s : State) (c : ErrCode) : (s.complete c).turns = s.turns := rfl
@[simp] theorem State.complete_reply (s : State) (c : ErrCode) : (s.complete c).reply = s.reply := rfl
@[simp] theorem State.complete_draws (s : State) (c : ErrCode) : (s.complete c).draws = s.draws := rfl

/-! ### Error (R161) -/

@[simp] theorem State.raise_cmd (s : State) (e : ErrCode) : (s.raise e).cmd = s.cmd := rfl
@[simp] theorem State.raise_inflight (s : State) (e : ErrCode) : (s.raise e).inflight = none := rfl
@[simp] theorem State.raise_done (s : State) (e : ErrCode) : (s.raise e).done = true := rfl
@[simp] theorem State.raise_err (s : State) (e : ErrCode) : (s.raise e).err = e := rfl
@[simp] theorem State.raise_ovr (s : State) (e : ErrCode) : (s.raise e).ovr = s.ovr := rfl
@[simp] theorem State.raise_accerr (s : State) (e : ErrCode) : (s.raise e).accerr = s.accerr := rfl
@[simp] theorem State.raise_ie (s : State) (e : ErrCode) : (s.raise e).ie = s.ie := rfl
@[simp] theorem State.raise_fold (s : State) (e : ErrCode) : (s.raise e).fold = s.fold := rfl
@[simp] theorem State.raise_len (s : State) (e : ErrCode) : (s.raise e).len = s.len := rfl
@[simp] theorem State.raise_argA (s : State) (e : ErrCode) : (s.raise e).argA = s.argA := rfl
@[simp] theorem State.raise_argB (s : State) (e : ErrCode) : (s.raise e).argB = s.argB := rfl
@[simp] theorem State.raise_res0 (s : State) (e : ErrCode) : (s.raise e).res0 = s.res0 := rfl
@[simp] theorem State.raise_res1 (s : State) (e : ErrCode) : (s.raise e).res1 = s.res1 := rfl
@[simp] theorem State.raise_res2 (s : State) (e : ErrCode) : (s.raise e).res2 = s.res2 := rfl
@[simp] theorem State.raise_res3 (s : State) (e : ErrCode) : (s.raise e).res3 = s.res3 := rfl
@[simp] theorem State.raise_res4 (s : State) (e : ErrCode) : (s.raise e).res4 = s.res4 := rfl
@[simp] theorem State.raise_sb (s : State) (e : ErrCode) : (s.raise e).sb = s.sb := rfl
@[simp] theorem State.raise_mver (s : State) (e : ErrCode) : (s.raise e).mver = s.mver := rfl
@[simp] theorem State.raise_phase (s : State) (e : ErrCode) : (s.raise e).phase = s.phase := rfl
@[simp] theorem State.raise_tables (s : State) (e : ErrCode) : (s.raise e).tables = s.tables := rfl
@[simp] theorem State.raise_mem (s : State) (e : ErrCode) : (s.raise e).mem = s.mem := rfl
@[simp] theorem State.raise_inReset (s : State) (e : ErrCode) : (s.raise e).inReset = s.inReset := rfl
@[simp] theorem State.raise_turns (s : State) (e : ErrCode) : (s.raise e).turns = s.turns := rfl
@[simp] theorem State.raise_reply (s : State) (e : ErrCode) : (s.raise e).reply = s.reply := rfl
@[simp] theorem State.raise_draws (s : State) (e : ErrCode) : (s.raise e).draws = s.draws := rfl

/-! ### Completion without error -/

@[simp] theorem State.finish_cmd (s : State) : (s.finish).cmd = s.cmd := rfl
@[simp] theorem State.finish_inflight (s : State) : (s.finish).inflight = none := rfl
@[simp] theorem State.finish_done (s : State) : (s.finish).done = true := rfl
@[simp] theorem State.finish_err (s : State) : (s.finish).err = .ok := rfl
@[simp] theorem State.finish_ovr (s : State) : (s.finish).ovr = s.ovr := rfl
@[simp] theorem State.finish_accerr (s : State) : (s.finish).accerr = s.accerr := rfl
@[simp] theorem State.finish_ie (s : State) : (s.finish).ie = s.ie := rfl
@[simp] theorem State.finish_fold (s : State) : (s.finish).fold = s.fold := rfl
@[simp] theorem State.finish_len (s : State) : (s.finish).len = s.len := rfl
@[simp] theorem State.finish_argA (s : State) : (s.finish).argA = s.argA := rfl
@[simp] theorem State.finish_argB (s : State) : (s.finish).argB = s.argB := rfl
@[simp] theorem State.finish_res0 (s : State) : (s.finish).res0 = s.res0 := rfl
@[simp] theorem State.finish_res1 (s : State) : (s.finish).res1 = s.res1 := rfl
@[simp] theorem State.finish_res2 (s : State) : (s.finish).res2 = s.res2 := rfl
@[simp] theorem State.finish_res3 (s : State) : (s.finish).res3 = s.res3 := rfl
@[simp] theorem State.finish_res4 (s : State) : (s.finish).res4 = s.res4 := rfl
@[simp] theorem State.finish_sb (s : State) : (s.finish).sb = s.sb := rfl
@[simp] theorem State.finish_mver (s : State) : (s.finish).mver = s.mver := rfl
@[simp] theorem State.finish_phase (s : State) : (s.finish).phase = s.phase := rfl
@[simp] theorem State.finish_tables (s : State) : (s.finish).tables = s.tables := rfl
@[simp] theorem State.finish_mem (s : State) : (s.finish).mem = s.mem := rfl
@[simp] theorem State.finish_inReset (s : State) : (s.finish).inReset = s.inReset := rfl
@[simp] theorem State.finish_turns (s : State) : (s.finish).turns = s.turns := rfl
@[simp] theorem State.finish_reply (s : State) : (s.finish).reply = s.reply := rfl
@[simp] theorem State.finish_draws (s : State) : (s.finish).draws = s.draws := rfl

/-! ### Acceptance (R159) -/

@[simp] theorem State.accept_cmd (s : State) (w : Word) : (s.accept w).cmd = w := rfl
@[simp] theorem State.accept_inflight (s : State) (w : Word) : (s.accept w).inflight = some { fold := s.fold } := rfl
@[simp] theorem State.accept_done (s : State) (w : Word) : (s.accept w).done = false := rfl
@[simp] theorem State.accept_err (s : State) (w : Word) : (s.accept w).err = .ok := rfl
@[simp] theorem State.accept_ovr (s : State) (w : Word) : (s.accept w).ovr = s.ovr := rfl
@[simp] theorem State.accept_accerr (s : State) (w : Word) : (s.accept w).accerr = s.accerr := rfl
@[simp] theorem State.accept_ie (s : State) (w : Word) : (s.accept w).ie = s.ie := rfl
@[simp] theorem State.accept_fold (s : State) (w : Word) : (s.accept w).fold = s.fold := rfl
@[simp] theorem State.accept_len (s : State) (w : Word) : (s.accept w).len = s.len := rfl
@[simp] theorem State.accept_argA (s : State) (w : Word) : (s.accept w).argA = s.argA := rfl
@[simp] theorem State.accept_argB (s : State) (w : Word) : (s.accept w).argB = s.argB := rfl
@[simp] theorem State.accept_res0 (s : State) (w : Word) : (s.accept w).res0 = s.res0 := rfl
@[simp] theorem State.accept_res1 (s : State) (w : Word) : (s.accept w).res1 = s.res1 := rfl
@[simp] theorem State.accept_res2 (s : State) (w : Word) : (s.accept w).res2 = s.res2 := rfl
@[simp] theorem State.accept_res3 (s : State) (w : Word) : (s.accept w).res3 = s.res3 := rfl
@[simp] theorem State.accept_res4 (s : State) (w : Word) : (s.accept w).res4 = s.res4 := rfl
@[simp] theorem State.accept_sb (s : State) (w : Word) : (s.accept w).sb = s.sb := rfl
@[simp] theorem State.accept_mver (s : State) (w : Word) : (s.accept w).mver = s.mver := rfl
@[simp] theorem State.accept_phase (s : State) (w : Word) : (s.accept w).phase = s.phase := rfl
@[simp] theorem State.accept_tables (s : State) (w : Word) : (s.accept w).tables = s.tables := rfl
@[simp] theorem State.accept_mem (s : State) (w : Word) : (s.accept w).mem = s.mem := rfl
@[simp] theorem State.accept_inReset (s : State) (w : Word) : (s.accept w).inReset = s.inReset := rfl
@[simp] theorem State.accept_turns (s : State) (w : Word) : (s.accept w).turns = s.turns := rfl
@[simp] theorem State.accept_reply (s : State) (w : Word) : (s.accept w).reply = s.reply := rfl
@[simp] theorem State.accept_draws (s : State) (w : Word) : (s.accept w).draws = s.draws := rfl

/-! ### Free values used up -/

@[simp] theorem State.drew_cmd (s : State) (n : Nat) : (s.drew n).cmd = s.cmd := rfl
@[simp] theorem State.drew_inflight (s : State) (n : Nat) : (s.drew n).inflight = s.inflight := rfl
@[simp] theorem State.drew_done (s : State) (n : Nat) : (s.drew n).done = s.done := rfl
@[simp] theorem State.drew_err (s : State) (n : Nat) : (s.drew n).err = s.err := rfl
@[simp] theorem State.drew_ovr (s : State) (n : Nat) : (s.drew n).ovr = s.ovr := rfl
@[simp] theorem State.drew_accerr (s : State) (n : Nat) : (s.drew n).accerr = s.accerr := rfl
@[simp] theorem State.drew_ie (s : State) (n : Nat) : (s.drew n).ie = s.ie := rfl
@[simp] theorem State.drew_fold (s : State) (n : Nat) : (s.drew n).fold = s.fold := rfl
@[simp] theorem State.drew_len (s : State) (n : Nat) : (s.drew n).len = s.len := rfl
@[simp] theorem State.drew_argA (s : State) (n : Nat) : (s.drew n).argA = s.argA := rfl
@[simp] theorem State.drew_argB (s : State) (n : Nat) : (s.drew n).argB = s.argB := rfl
@[simp] theorem State.drew_res0 (s : State) (n : Nat) : (s.drew n).res0 = s.res0 := rfl
@[simp] theorem State.drew_res1 (s : State) (n : Nat) : (s.drew n).res1 = s.res1 := rfl
@[simp] theorem State.drew_res2 (s : State) (n : Nat) : (s.drew n).res2 = s.res2 := rfl
@[simp] theorem State.drew_res3 (s : State) (n : Nat) : (s.drew n).res3 = s.res3 := rfl
@[simp] theorem State.drew_res4 (s : State) (n : Nat) : (s.drew n).res4 = s.res4 := rfl
@[simp] theorem State.drew_sb (s : State) (n : Nat) : (s.drew n).sb = s.sb := rfl
@[simp] theorem State.drew_mver (s : State) (n : Nat) : (s.drew n).mver = s.mver := rfl
@[simp] theorem State.drew_phase (s : State) (n : Nat) : (s.drew n).phase = s.phase := rfl
@[simp] theorem State.drew_tables (s : State) (n : Nat) : (s.drew n).tables = s.tables := rfl
@[simp] theorem State.drew_mem (s : State) (n : Nat) : (s.drew n).mem = s.mem := rfl
@[simp] theorem State.drew_inReset (s : State) (n : Nat) : (s.drew n).inReset = s.inReset := rfl
@[simp] theorem State.drew_turns (s : State) (n : Nat) : (s.drew n).turns = s.turns := rfl
@[simp] theorem State.drew_reply (s : State) (n : Nat) : (s.drew n).reply = s.reply := rfl
@[simp] theorem State.drew_draws (s : State) (n : Nat) : (s.drew n).draws = s.draws + n := rfl

/-! ### Lazy build (R82) -/

@[simp] theorem State.needTables_cmd (s : State) : (s.needTables).cmd = s.cmd := rfl
@[simp] theorem State.needTables_inflight (s : State) : (s.needTables).inflight = s.inflight := rfl
@[simp] theorem State.needTables_done (s : State) : (s.needTables).done = s.done := rfl
@[simp] theorem State.needTables_err (s : State) : (s.needTables).err = s.err := rfl
@[simp] theorem State.needTables_ovr (s : State) : (s.needTables).ovr = s.ovr := rfl
@[simp] theorem State.needTables_accerr (s : State) : (s.needTables).accerr = s.accerr := rfl
@[simp] theorem State.needTables_ie (s : State) : (s.needTables).ie = s.ie := rfl
@[simp] theorem State.needTables_fold (s : State) : (s.needTables).fold = s.fold := rfl
@[simp] theorem State.needTables_len (s : State) : (s.needTables).len = s.len := rfl
@[simp] theorem State.needTables_argA (s : State) : (s.needTables).argA = s.argA := rfl
@[simp] theorem State.needTables_argB (s : State) : (s.needTables).argB = s.argB := rfl
@[simp] theorem State.needTables_res0 (s : State) : (s.needTables).res0 = s.res0 := rfl
@[simp] theorem State.needTables_res1 (s : State) : (s.needTables).res1 = s.res1 := rfl
@[simp] theorem State.needTables_res2 (s : State) : (s.needTables).res2 = s.res2 := rfl
@[simp] theorem State.needTables_res3 (s : State) : (s.needTables).res3 = s.res3 := rfl
@[simp] theorem State.needTables_res4 (s : State) : (s.needTables).res4 = s.res4 := rfl
@[simp] theorem State.needTables_sb (s : State) : (s.needTables).sb = s.sb := rfl
@[simp] theorem State.needTables_mver (s : State) : (s.needTables).mver = s.mver := rfl
@[simp] theorem State.needTables_phase (s : State) : (s.needTables).phase = s.phase := rfl
@[simp] theorem State.needTables_tables (s : State) : (s.needTables).tables = some s.gf := rfl
@[simp] theorem State.needTables_mem (s : State) : (s.needTables).mem = s.mem := rfl
@[simp] theorem State.needTables_inReset (s : State) : (s.needTables).inReset = s.inReset := rfl
@[simp] theorem State.needTables_turns (s : State) : (s.needTables).turns = s.turns := rfl
@[simp] theorem State.needTables_reply (s : State) : (s.needTables).reply = s.reply := rfl
@[simp] theorem State.needTables_draws (s : State) : (s.needTables).draws = s.draws := rfl

/-! ### Reset asserted (R169) -/

@[simp] theorem State.assertReset_cmd (s : State) : (s.assertReset).cmd = s.cmd := rfl
@[simp] theorem State.assertReset_inflight (s : State) : (s.assertReset).inflight = none := rfl
@[simp] theorem State.assertReset_done (s : State) : (s.assertReset).done = s.done := rfl
@[simp] theorem State.assertReset_err (s : State) : (s.assertReset).err = s.err := rfl
@[simp] theorem State.assertReset_ovr (s : State) : (s.assertReset).ovr = s.ovr := rfl
@[simp] theorem State.assertReset_accerr (s : State) : (s.assertReset).accerr = s.accerr := rfl
@[simp] theorem State.assertReset_ie (s : State) : (s.assertReset).ie = s.ie := rfl
@[simp] theorem State.assertReset_fold (s : State) : (s.assertReset).fold = s.fold := rfl
@[simp] theorem State.assertReset_len (s : State) : (s.assertReset).len = s.len := rfl
@[simp] theorem State.assertReset_argA (s : State) : (s.assertReset).argA = s.argA := rfl
@[simp] theorem State.assertReset_argB (s : State) : (s.assertReset).argB = s.argB := rfl
@[simp] theorem State.assertReset_res0 (s : State) : (s.assertReset).res0 = s.res0 := rfl
@[simp] theorem State.assertReset_res1 (s : State) : (s.assertReset).res1 = s.res1 := rfl
@[simp] theorem State.assertReset_res2 (s : State) : (s.assertReset).res2 = s.res2 := rfl
@[simp] theorem State.assertReset_res3 (s : State) : (s.assertReset).res3 = s.res3 := rfl
@[simp] theorem State.assertReset_res4 (s : State) : (s.assertReset).res4 = s.res4 := rfl
@[simp] theorem State.assertReset_sb (s : State) : (s.assertReset).sb = s.sb := rfl
@[simp] theorem State.assertReset_mver (s : State) : (s.assertReset).mver = s.mver := rfl
@[simp] theorem State.assertReset_phase (s : State) : (s.assertReset).phase = s.phase := rfl
@[simp] theorem State.assertReset_tables (s : State) : (s.assertReset).tables = s.tables := rfl
@[simp] theorem State.assertReset_mem (s : State) : (s.assertReset).mem = s.mem := rfl
@[simp] theorem State.assertReset_inReset (s : State) : (s.assertReset).inReset = true := rfl
@[simp] theorem State.assertReset_turns (s : State) : (s.assertReset).turns = s.turns := rfl
@[simp] theorem State.assertReset_reply (s : State) : (s.assertReset).reply = s.reply := rfl
@[simp] theorem State.assertReset_draws (s : State) : (s.assertReset).draws = s.draws := rfl

/-! ### A write of STATUS (R26) -/

@[simp] theorem State.writeStatus_cmd (s : State) (w : Word) : (s.writeStatus w).cmd = s.cmd := rfl
@[simp] theorem State.writeStatus_inflight (s : State) (w : Word) : (s.writeStatus w).inflight = s.inflight := rfl
@[simp] theorem State.writeStatus_done (s : State) (w : Word) : (s.writeStatus w).done = (s.done && !w.getLsbD 1) := rfl
@[simp] theorem State.writeStatus_err (s : State) (w : Word) : (s.writeStatus w).err = s.err := rfl
@[simp] theorem State.writeStatus_ovr (s : State) (w : Word) : (s.writeStatus w).ovr = (s.ovr && !w.getLsbD 8) := rfl
@[simp] theorem State.writeStatus_accerr (s : State) (w : Word) : (s.writeStatus w).accerr = (s.accerr && !w.getLsbD 9) := rfl
@[simp] theorem State.writeStatus_ie (s : State) (w : Word) : (s.writeStatus w).ie = s.ie := rfl
@[simp] theorem State.writeStatus_fold (s : State) (w : Word) : (s.writeStatus w).fold = s.fold := rfl
@[simp] theorem State.writeStatus_len (s : State) (w : Word) : (s.writeStatus w).len = s.len := rfl
@[simp] theorem State.writeStatus_argA (s : State) (w : Word) : (s.writeStatus w).argA = s.argA := rfl
@[simp] theorem State.writeStatus_argB (s : State) (w : Word) : (s.writeStatus w).argB = s.argB := rfl
@[simp] theorem State.writeStatus_res0 (s : State) (w : Word) : (s.writeStatus w).res0 = s.res0 := rfl
@[simp] theorem State.writeStatus_res1 (s : State) (w : Word) : (s.writeStatus w).res1 = s.res1 := rfl
@[simp] theorem State.writeStatus_res2 (s : State) (w : Word) : (s.writeStatus w).res2 = s.res2 := rfl
@[simp] theorem State.writeStatus_res3 (s : State) (w : Word) : (s.writeStatus w).res3 = s.res3 := rfl
@[simp] theorem State.writeStatus_res4 (s : State) (w : Word) : (s.writeStatus w).res4 = s.res4 := rfl
@[simp] theorem State.writeStatus_sb (s : State) (w : Word) : (s.writeStatus w).sb = s.sb := rfl
@[simp] theorem State.writeStatus_mver (s : State) (w : Word) : (s.writeStatus w).mver = s.mver := rfl
@[simp] theorem State.writeStatus_phase (s : State) (w : Word) : (s.writeStatus w).phase = s.phase := rfl
@[simp] theorem State.writeStatus_tables (s : State) (w : Word) : (s.writeStatus w).tables = s.tables := rfl
@[simp] theorem State.writeStatus_mem (s : State) (w : Word) : (s.writeStatus w).mem = s.mem := rfl
@[simp] theorem State.writeStatus_inReset (s : State) (w : Word) : (s.writeStatus w).inReset = s.inReset := rfl
@[simp] theorem State.writeStatus_turns (s : State) (w : Word) : (s.writeStatus w).turns = s.turns := rfl
@[simp] theorem State.writeStatus_reply (s : State) (w : Word) : (s.writeStatus w).reply = s.reply := rfl
@[simp] theorem State.writeStatus_draws (s : State) (w : Word) : (s.writeStatus w).draws = s.draws := rfl

/-! ### A write of CTRL (R27) -/

@[simp] theorem State.writeCtrl_cmd (s : State) (w : Word) : (s.writeCtrl w).cmd = s.cmd := rfl
@[simp] theorem State.writeCtrl_inflight (s : State) (w : Word) : (s.writeCtrl w).inflight = s.inflight := rfl
@[simp] theorem State.writeCtrl_done (s : State) (w : Word) : (s.writeCtrl w).done = s.done := rfl
@[simp] theorem State.writeCtrl_err (s : State) (w : Word) : (s.writeCtrl w).err = s.err := rfl
@[simp] theorem State.writeCtrl_ovr (s : State) (w : Word) : (s.writeCtrl w).ovr = s.ovr := rfl
@[simp] theorem State.writeCtrl_accerr (s : State) (w : Word) : (s.writeCtrl w).accerr = s.accerr := rfl
@[simp] theorem State.writeCtrl_ie (s : State) (w : Word) : (s.writeCtrl w).ie = w.getLsbD 0 := rfl
@[simp] theorem State.writeCtrl_fold (s : State) (w : Word) : (s.writeCtrl w).fold = w.getLsbD 1 := rfl
@[simp] theorem State.writeCtrl_len (s : State) (w : Word) : (s.writeCtrl w).len = s.len := rfl
@[simp] theorem State.writeCtrl_argA (s : State) (w : Word) : (s.writeCtrl w).argA = s.argA := rfl
@[simp] theorem State.writeCtrl_argB (s : State) (w : Word) : (s.writeCtrl w).argB = s.argB := rfl
@[simp] theorem State.writeCtrl_res0 (s : State) (w : Word) : (s.writeCtrl w).res0 = s.res0 := rfl
@[simp] theorem State.writeCtrl_res1 (s : State) (w : Word) : (s.writeCtrl w).res1 = s.res1 := rfl
@[simp] theorem State.writeCtrl_res2 (s : State) (w : Word) : (s.writeCtrl w).res2 = s.res2 := rfl
@[simp] theorem State.writeCtrl_res3 (s : State) (w : Word) : (s.writeCtrl w).res3 = s.res3 := rfl
@[simp] theorem State.writeCtrl_res4 (s : State) (w : Word) : (s.writeCtrl w).res4 = s.res4 := rfl
@[simp] theorem State.writeCtrl_sb (s : State) (w : Word) : (s.writeCtrl w).sb = s.sb := rfl
@[simp] theorem State.writeCtrl_mver (s : State) (w : Word) : (s.writeCtrl w).mver = s.mver := rfl
@[simp] theorem State.writeCtrl_phase (s : State) (w : Word) : (s.writeCtrl w).phase = s.phase := rfl
@[simp] theorem State.writeCtrl_tables (s : State) (w : Word) : (s.writeCtrl w).tables = s.tables := rfl
@[simp] theorem State.writeCtrl_mem (s : State) (w : Word) : (s.writeCtrl w).mem = s.mem := rfl
@[simp] theorem State.writeCtrl_inReset (s : State) (w : Word) : (s.writeCtrl w).inReset = s.inReset := rfl
@[simp] theorem State.writeCtrl_turns (s : State) (w : Word) : (s.writeCtrl w).turns = s.turns := rfl
@[simp] theorem State.writeCtrl_reply (s : State) (w : Word) : (s.writeCtrl w).reply = s.reply := rfl
@[simp] theorem State.writeCtrl_draws (s : State) (w : Word) : (s.writeCtrl w).draws = s.draws := rfl

/-! ### Computed views -/

@[simp] theorem State.complete_busy (s : State) (c : ErrCode) : (s.complete c).busy = false := rfl
@[simp] theorem State.raise_busy (s : State) (e : ErrCode) : (s.raise e).busy = false := rfl
@[simp] theorem State.finish_busy (s : State) : s.finish.busy = false := rfl
@[simp] theorem State.accept_busy (s : State) (w : Word) : (s.accept w).busy = true := rfl
@[simp] theorem State.accept_sampledFold (s : State) (w : Word) : (s.accept w).sampledFold = s.fold := rfl
@[simp] theorem State.needTables_gf (s : State) : s.needTables.gf = s.gf := rfl

end Sys2Proof.Machine
end

