-- ==== Sys2Proof/Laws/Ops.lean ====
section
/-! SUPPORT. One lemma for each shared operation that says what it does: the engine's reads, the host's stores,
the operations on the matrix, and what a turn can be. -/

namespace Sys2Proof.Machine

/-! ## The engine's reads -/

@[simp] theorem State.length_readBytes (s : State) (a n : Nat) : (s.readBytes a n).length = n := by
  simp [State.readBytes]

/-- Byte `i` of a range read is the stored byte, or the free value of its own number. -/
theorem State.getElem?_readBytes (s : State) (a n i : Nat) (h : i < n) :
    (s.readBytes a n)[i]? = some ((s.mem.read (a + i)).getD (freeByte (s.draws + i))) := by
  simp [State.readBytes, List.getElem?_mapIdx, Memory.getElem?_slice _ _ _ _ h]

/-- Written bytes are read as they are, whatever the free values. -/
theorem State.readBytes_of_written (s : State) (a : Nat) (bs : List Byte)
    (h : ∀ i, i < bs.length → s.mem.read (a + i) = bs[i]?) : s.readBytes a bs.length = bs := by
  refine List.ext_getElem? fun i => ?_
  by_cases hi : i < bs.length
  · rw [State.getElem?_readBytes _ _ _ _ hi, h i hi, List.getElem?_eq_getElem hi]; rfl
  · rw [List.getElem?_eq_none (by simp; omega), List.getElem?_eq_none (by omega)]

/-! ## The host's stores -/

theorem hostStore_wf (m : Memory) (h : m.wf) (a : Nat) (b : Byte) : (hostStore m a b).wf := by
  unfold hostStore
  split
  all_goals first | exact m.write_wf h a _ | exact h | skip
  split
  · exact m.write_wf h a _
  · exact h

/-- One stored byte: its offset takes it, if it is storage the host may write, and no other offset changes. -/
theorem read_hostStore (m : Memory) (a x : Nat) (b : Byte) :
    (hostStore m a b).read x =
      if x = a then
        match regionOf a with
        | .ibuf | .cwb | .ilb | .eccb => some b
        | .mtxwin => if isCell a then some (cellByte (byteCell b)) else m.read x
        | _ => m.read x
      else m.read x := by
  unfold hostStore
  by_cases hx : x = a
  · subst hx
    cases regionOf x <;> simp only [if_true] <;> first | exact m.read_write_same x _ | rfl | skip
    split
    · exact m.read_write_same x _
    · rfl
  · rw [if_neg hx]
    cases regionOf a <;> simp only <;> first | exact m.read_write_other a x _ hx | rfl | skip
    split
    · exact m.read_write_other a x _ hx
    · rfl

theorem hostStoreBytes_wf (m : Memory) (h : m.wf) (a n : Nat) (w : Word) : (hostStoreBytes m a n w).wf := by
  unfold hostStoreBytes
  generalize List.range n = is
  induction is generalizing m with
  | nil => exact h
  | cons i is ih => exact ih _ (hostStore_wf m h _ _)

/-- A host store changes no offset outside the stored bytes. -/
theorem read_hostStoreBytes_other (m : Memory) (a n x : Nat) (w : Word) (hx : x < a ∨ a + n ≤ x) :
    (hostStoreBytes m a n w).read x = m.read x := by
  unfold hostStoreBytes
  have : ∀ (is : List Nat) (m : Memory), (∀ i ∈ is, i < n) →
      (is.foldl (fun m i => hostStore m (a + i) (w.extractLsb' (8 * i) 8)) m).read x = m.read x := by
    intro is
    induction is with
    | nil => intros; rfl
    | cons i is ih =>
      intro m hi
      have h1 := hi i (by simp)
      rw [List.foldl_cons, ih _ fun j hj => hi j (by simp [hj]), read_hostStore, if_neg (by omega)]
  exact this _ m fun i hi => by simpa using hi

/-! ## The matrix -/

/-- The region of the offsets of MTXWIN (20_memory.md R44). -/
theorem regionOf_mtxwin (a : Nat) (h : 0x10000 ≤ a) (h' : a ≤ 0x1FFFF) : regionOf a = .mtxwin := by
  simp (disch := omega) only [regionOf, if_neg, if_pos]

/-- The region of the offsets of RSVWIN (20_memory.md R44). -/
theorem regionOf_rsvwin (a : Nat) (h : 0x20000 ≤ a) (h' : a ≤ 0x2FFFF) : regionOf a = .rsvwin := by
  simp (disch := omega) only [regionOf, if_neg, if_pos]

/-- A cell of MTX is storage that reads unwritten until it is written. -/
theorem unlisted_mtx (r c : Nat) (hr : r < maxSide) (hc : c < maxSide) : unlisted (cellAddr mtxBase r c) = none := by
  unfold maxSide at hr hc
  have h := regionOf_mtxwin (cellAddr mtxBase r c) (by unfold cellAddr mtxBase; omega)
    (by unfold cellAddr mtxBase; omega)
  have h2 : isCell (cellAddr mtxBase r c) = true := by
    unfold isCell rowOf colOf cellAddr mtxBase maxSide
    simp; omega
  simp [unlisted, h, h2]

/-- A cell of RSV reads 0 until it is set. -/
theorem unlisted_rsv (r c : Nat) (hr : r < maxSide) (hc : c < maxSide) : unlisted (cellAddr rsvBase r c) = some 0 := by
  unfold maxSide at hr hc
  simp [unlisted, regionOf_rsvwin (cellAddr rsvBase r c) (by unfold cellAddr rsvBase; omega)
    (by unfold cellAddr rsvBase; omega)]

/-- The version of the side bound: up to 40 the square lies in the 177-by-177 array. -/
theorem State.side_le (s : State) (h : s.mver.toNat ≤ 40) : s.side ≤ maxSide := by
  unfold State.side maxSide; omega

/-- Reading MTX after `f` rewrites the current square. -/
theorem read_mtx_mapSquare (s : State) (f : Nat → Nat → Option Byte → Option Byte) (h : s.mver.toNat ≤ 40)
    (r c : Nat) (hr : r < s.side) (hc : c < s.side) :
    (s.mem.mapSquare mtxBase s.side f).read (cellAddr mtxBase r c) = f r c (s.mem.read (cellAddr mtxBase r c)) := by
  have hs := s.side_le h
  rw [Memory.read_mapSquare_cell _ _ _ _ _ _ (by unfold maxSide at hs; omega) hr hc,
    unlisted_mtx r c (by omega) (by omega), Option.or_none]

/-- One cell of the current square as a command reads it. -/
theorem State.cellAt_matrix (s : State) (r c : Nat) (hr : r < s.side) (hc : c < s.side) :
    cellAt s.matrix r c =
      ((s.mem.read (cellAddr mtxBase r c)).map byteCell).getD (freeBit (s.draws + (s.side * r + c))) := by
  simp [cellAt, State.matrix, State.matrixRow, List.getD_eq_getElem?_getD, List.getElem?_mapIdx, hr,
    Memory.getElem?_slice _ _ _ _ hc, cellAddr]

/-- One cell of the reserved mask as a command reads it. -/
theorem State.cellAt_reserved (s : State) (r c : Nat) (hr : r < s.side) (hc : c < s.side) :
    cellAt s.reserved r c = ((s.mem.read (cellAddr rsvBase r c)).map byteCell).getD false := by
  simp [cellAt, State.reserved, List.getD_eq_getElem?_getD, hr, Memory.getElem?_slice _ _ _ _ hc, cellAddr]

/-- A bit shown as a window byte is the bit. -/
@[simp] theorem byteCell_cellByte (b : Bool) : byteCell (cellByte b) = b := by cases b <;> rfl

/-! ## Turns -/

/-- What one step can be: the engine's turn with none left, or the first turn of the list. -/
theorem step_cases (s : State) :
    (s.turns = [] ∧ step s = s.engineTurn) ∨
      ∃ t rest, s.turns = t :: rest ∧ step s = { s with turns := rest }.takeTurn t := by
  cases h : s.turns with
  | nil => left; simp [step, State.advance, h]
  | cons t rest => right; exact ⟨t, rest, rfl, by simp [step, State.advance, h]⟩

end Sys2Proof.Machine
end

