-- ==== Sys2Proof/Laws/PerInstr.lean ====
section
/-! SUPPORT. Statements made per command. -/

namespace Sys2Proof.Laws.OpcodeRow

/-- OP, with every other bit of the row 0: the `match` of a command's row in spec/opcode_table.json
(30_encoding.md R70). -/
def matchWord : Instr → Word
  | .nop => 0x00000000
  | .tblinit => 0x00000001
  | .gfmul => 0x00000002
  | .gfexp => 0x00000003
  | .gflog => 0x00000004
  | .genrd => 0x00000005
  | .capq _ _ _ => 0x00000006
  | .bchq _ _ _ => 0x00000007
  | .validate _ => 0x00000008
  | .pack _ _ _ => 0x00000009
  | .rsrem => 0x0000000A
  | .augment _ _ => 0x0000000B
  | .buildbase _ => 0x0000000C
  | .place => 0x0000000D
  | .applymask _ => 0x0000000E
  | .writefmt _ _ => 0x0000000F
  | .score => 0x00000010
  | .select _ _ => 0x00000011
  | .generate _ _ _ _ => 0x00000012

/-- The word of the command fits its row: under the row's mask 0xFFC0001F it is the row's match. -/
def Statement (i : Instr) : Prop := encode i &&& 0xFFC0001F = matchWord i

/-- Under the mask only OP is left of an assembled word. -/
theorem wordOfFields_masked (op : BitVec 5) (ecc : BitVec 3) (ver : BitVec 6) (mode mask : BitVec 4) :
    wordOfFields op ecc ver mode mask &&& 0xFFC0001F = op.setWidth 32 := by
  refine BitVec.eq_of_getLsbD_eq fun i hi => ?_
  simp only [wordOfFields, BitVec.getLsbD_and, BitVec.getLsbD_append, BitVec.getLsbD_setWidth]
  interval_cases i <;> simp

theorem nop : Statement .nop := wordOfFields_masked ..
theorem tblinit : Statement .tblinit := wordOfFields_masked ..
theorem gfmul : Statement .gfmul := wordOfFields_masked ..
theorem gfexp : Statement .gfexp := wordOfFields_masked ..
theorem gflog : Statement .gflog := wordOfFields_masked ..
theorem genrd : Statement .genrd := wordOfFields_masked ..
theorem capq (ecc : BitVec 3) (ver : BitVec 6) (mode : BitVec 4) : Statement (.capq ecc ver mode) :=
  wordOfFields_masked ..
theorem bchq (ecc : BitVec 3) (ver : BitVec 6) (mask : BitVec 4) : Statement (.bchq ecc ver mask) :=
  wordOfFields_masked ..
theorem validate (mode : BitVec 4) : Statement (.validate mode) := wordOfFields_masked ..
theorem pack (ecc : BitVec 3) (ver : BitVec 6) (mode : BitVec 4) : Statement (.pack ecc ver mode) :=
  wordOfFields_masked ..
theorem rsrem : Statement .rsrem := wordOfFields_masked ..
theorem augment (ecc : BitVec 3) (ver : BitVec 6) : Statement (.augment ecc ver) := wordOfFields_masked ..
theorem buildbase (ver : BitVec 6) : Statement (.buildbase ver) := wordOfFields_masked ..
theorem place : Statement .place := wordOfFields_masked ..
theorem applymask (mask : BitVec 4) : Statement (.applymask mask) := wordOfFields_masked ..
theorem writefmt (ecc : BitVec 3) (mask : BitVec 4) : Statement (.writefmt ecc mask) := wordOfFields_masked ..
theorem score : Statement .score := wordOfFields_masked ..
theorem select (ecc : BitVec 3) (mask : BitVec 4) : Statement (.select ecc mask) := wordOfFields_masked ..
theorem generate (ecc : BitVec 3) (ver : BitVec 6) (mode mask : BitVec 4) :
    Statement (.generate ecc ver mode mask) := wordOfFields_masked ..

end Sys2Proof.Laws.OpcodeRow
end

