-- ==== Sys2Proof/Machine/Script.lean ====
section
/-! DEFINITION. The host-script pseudo-instructions (30_encoding.md R74) as the turns they give the machine.
Offsets are from QRE_BASE. -/

namespace Sys2Proof.Machine

/-- `W32 off, v`. -/
def scriptW32 (off : BitVec 18) (v : Word) : List Turn := [.host (.write off 32 v)]

/-- `W8 off, v`. -/
def scriptW8 (off : BitVec 18) (v : Byte) : List Turn := [.host (.write off 8 (v.setWidth 32))]

/-- `R32 off`. -/
def scriptR32 (off : BitVec 18) : List Turn := [.host (.read off 32)]

/-- `R8 off`. -/
def scriptR8 (off : BitVec 18) : List Turn := [.host (.read off 8)]

/-- `LOAD s`: each byte to IBUF, then the length to LEN. -/
def scriptLoad (bs : List Byte) : List Turn :=
  (bs.zipIdx.flatMap fun bi => scriptW8 (BitVec.ofNat 18 (0x02000 + bi.2)) bi.1) ++
    scriptW32 0x010 (BitVec.ofNat 32 bs.length)

/-- `ISSUE cmd`. -/
def scriptIssue (w : Word) : List Turn := scriptW32 0x004 w

/-- `WAIT` for a command whose BUSY window takes `polls` reads of STATUS: they read BUSY 1, the command
completes, and one more read ends the loop (log 19). -/
def scriptWait (polls : Nat) : List Turn :=
  (List.replicate polls (scriptR32 0x008)).flatten ++ [.engine] ++ scriptR32 0x008

/-- `RUN cmd`. -/
def scriptRun (w : Word) (polls : Nat) : List Turn := scriptIssue w ++ scriptWait polls

/-- `SETA v` and `SETB v`. -/
def scriptSetA (v : Word) : List Turn := scriptW32 0x014 v
def scriptSetB (v : Word) : List Turn := scriptW32 0x018 v

end Sys2Proof.Machine
end

