-- ==== Sys2Proof/Tests/Slice0.lean ====
section
/-! SUPPORT. Tests: ill-formed commands, the words of every command, one-step results the spec prints, and for
every obligation with hypotheses a state that meets them. Expected values come from spec/95_test_vectors.md or
the examples of the command rules, named at each test. -/

namespace Sys2Proof.Tests

open Sys2Proof Sys2Proof.Machine Sys2Proof.Claims

/-! ## Helpers -/

/-- The state a step answers. -/
def after (o : Host.Outcome State Fault Refusal) : State :=
  match o with
  | .next t => t
  | _ => State.reset

/-- The step that runs the word at the state. -/
def run (s : State) (w : Nat) : State := after (step (s.withFetchWord 32 w))

/-- Bytes stored in memory from an offset on. -/
def poke (s : State) (a : Nat) (bs : List Byte) : State := { s with mem := s.mem.writeBytes a bs }

/-- Input data with its length. -/
def load (bs : List Byte) : State := { poke State.reset ibufBase bs with len := BitVec.ofNat 14 bs.length }

/-- A version-1 matrix in a phase, its cells unwritten. -/
def inPhase (p : Phase) : State := { State.reset with phase := p, mver := 1 }

/-- A command word in flight, accepted from reset, with turns to come. -/
def flying (w : Word) (ts : List Turn) : State := { State.reset.accept w with turns := ts }

theorem flying_idle_tables (w : Word) (ts : List Turn) : (flying w ts).TablesInv := by
  intro t h; cases h

theorem reset_tablesInv : State.reset.TablesInv := by intro t h; cases h

/-! ## WellFormed refuses -/

/-- R64: ECC 4. -/
theorem test_ill_formed_ecc : (Instr.augment 4 1).wellFormed = false := by decide
/-- R65: VER 0 where auto is not accepted. -/
theorem test_ill_formed_ver_zero : (Instr.buildbase 0).wellFormed = false := by decide
/-- R65: VER 41. -/
theorem test_ill_formed_ver_big : (Instr.generate 0 41 0 15).wellFormed = false := by decide
/-- R66: MODE 8, the Kanji indicator. -/
theorem test_ill_formed_mode : (Instr.validate 8).wellFormed = false := by decide
/-- R66: MODE 0 where auto is not accepted. -/
theorem test_ill_formed_mode_auto : (Instr.capq 0 1 0).wellFormed = false := by decide
/-- R67: MASK 8. -/
theorem test_ill_formed_mask : (Instr.select 0 8).wellFormed = false := by decide
/-- R67: MASK 15 where auto is not accepted. -/
theorem test_ill_formed_mask_auto : (Instr.applymask 15).wellFormed = false := by decide
/-- R71: the automatic values GENERATE accepts. -/
theorem test_well_formed_auto : (Instr.generate 3 0 0 15).wellFormed = true := by decide

/-! ## Decoding: words the spec prints -/

/-- X-2. -/
theorem test_decode_nop : decodeTableWord 32 0x00000000 = some .nop := by decide
/-- G-1. -/
theorem test_decode_tblinit : decodeTableWord 32 0x00000001 = some .tblinit := by decide
/-- G-8. -/
theorem test_decode_gfmul : decodeTableWord 32 0x00000002 = some .gfmul := by decide
/-- G-17. -/
theorem test_decode_gfexp : decodeTableWord 32 0x00000003 = some .gfexp := by decide
/-- G-19. -/
theorem test_decode_gflog : decodeTableWord 32 0x00000004 = some .gflog := by decide
/-- G-22. -/
theorem test_decode_genrd : decodeTableWord 32 0x00000005 = some .genrd := by decide
/-- C-6: ver=5, ecc=Q, mode=alnum. -/
theorem test_decode_capq : decodeTableWord 32 0x00008566 = some (.capq 3 5 2) := by decide
/-- C-34: ecc=H, ver=32, mask=2. -/
theorem test_decode_bchq : decodeTableWord 32 0x00082047 = some (.bchq 2 32 2) := by decide
/-- P-1: mode=alnum. -/
theorem test_decode_validate : decodeTableWord 32 0x00008008 = some (.validate 2) := by decide
/-- P-17: ver=1, ecc=L, mode=num. -/
theorem test_decode_pack : decodeTableWord 32 0x00004129 = some (.pack 1 1 1) := by decide
/-- R120. -/
theorem test_decode_rsrem : decodeTableWord 32 0x0000000A = some .rsrem := by decide
/-- E-20: ver=5, ecc=Q. -/
theorem test_decode_augment : decodeTableWord 32 0x0000056B = some (.augment 3 5) := by decide
/-- M-7: ver=40. -/
theorem test_decode_buildbase : decodeTableWord 32 0x0000280C = some (.buildbase 40) := by decide
/-- M-10. -/
theorem test_decode_place : decodeTableWord 32 0x0000000D = some .place := by decide
/-- R145: mask=3. -/
theorem test_decode_applymask : decodeTableWord 32 0x000C000E = some (.applymask 3) := by decide
/-- S-28: ECC 7, MASK 0. -/
theorem test_decode_writefmt : decodeTableWord 32 0x000000EF = some (.writefmt 7 0) := by decide
/-- S-21. -/
theorem test_decode_score : decodeTableWord 32 0x00000010 = some .score := by decide
/-- R148: ecc=M, mask auto. -/
theorem test_decode_select : decodeTableWord 32 0x003C0011 = some (.select 0 15) := by decide
/-- L1-1: ver=1, ecc=M, mode=num, mask auto. -/
theorem test_decode_generate : decodeTableWord 32 0x003C4112 = some (.generate 0 1 1 15) := by decide
/-- X-3, X-4, X-5: the reserved encodings. -/
theorem test_decode_reserved :
    decodeTableWord 32 0x13 = none ∧ decodeTableWord 32 0x1F = none ∧ decodeTableWord 32 0x00400000 = none := by
  decide
/-- R73: the assembler's word of the example of R151. -/
theorem test_assemble_generate :
    (assemble "GENERATE ver=1, ecc=M, mode=num".toList).toOption = some 0x003C4112 := by
  decide +kernel

/-! ## One step: results the spec prints -/

/-- X-2. -/
theorem test_nop_status : (run State.reset 0x0).statusWord = 0x2 := by decide +kernel
/-- X-3. -/
theorem test_reserved_status :
    (run State.reset 0x13).statusWord = 0x76 ∧ (run State.reset 0x13).cmd = 0x13 := by decide +kernel
/-- G-1: the status. -/
theorem test_tblinit_status : (run State.reset 0x1).statusWord = 0xA := by decide +kernel
/-- G-1: LOGWIN byte 2. -/
theorem test_tblinit_log : (run State.reset 0x1).tableByte 0x7102 = 0x01 := by decide +kernel
/-- G-8. -/
theorem test_gfmul : (run { State.reset with argA := 0x53, argB := 0xCA } 0x2).res0 = 0x8F := by decide +kernel
/-- G-16. -/
theorem test_gfmul_range :
    (run { State.reset with tables := some builtTables, argA := 0x100, argB := 1 } 0x2).statusWord = 0x9E := by
  decide +kernel
/-- G-17. -/
theorem test_gfexp : (run { State.reset with argA := 254 } 0x3).res0 = 0x8E := by decide +kernel
/-- G-19. -/
theorem test_gflog : (run { State.reset with argA := 0xFF } 0x4).res0 = 175 := by decide +kernel
/-- G-20. -/
theorem test_gflog_zero : (run State.reset 0x4).res0 = 0xFF ∧ (run State.reset 0x4).err = .ok := by decide +kernel
/-- R87: K = 2, j = 0. -/
theorem test_genrd :
    (run { State.reset with argA := 2 } 0x5).res0 = 25 ∧ (run { State.reset with argA := 2 } 0x5).res1 = 3 := by
  decide +kernel
/-- C-6. -/
theorem test_capq :
    let t := run State.reset 0x8566
    t.res0 = 496 ∧ t.res1 = 87 ∧ t.res2 = 0x02041209 ∧ t.res3 = 0x04370430 ∧ t.res4 = 37 := by decide +kernel
/-- C-26. -/
theorem test_capq_priority : (run State.reset 0x86).err = .invalidMode := by decide +kernel
/-- C-34. -/
theorem test_bchq : (run State.reset 0x82047).res0 = 0x1CE7 ∧ (run State.reset 0x82047).res1 = 0x209D5 := by
  decide +kernel
/-- P-1: `hello` folds to `HELLO`. -/
theorem test_validate_folds :
    let t := run (load [0x68, 0x65, 0x6C, 0x6C, 0x6F]) 0x8008
    t.res0 = 2 ∧ t.res1 = 5 ∧ t.mem.slice ibufBase 5 = [some 0x48, some 0x45, some 0x4C, some 0x4C, some 0x4F] := by
  decide +kernel
/-- P-11. -/
theorem test_validate_priority : (run { State.reset with len := 8193 } 0xC008).err = .invalidMode := by
  decide +kernel
/-- P-21: `7` at ver=1, ecc=H, mode=num. -/
theorem test_pack :
    let t := run (load [0x37]) 0x4149
    t.res0 = 9 ∧ t.res1 = 18 ∧ t.mem.slice cwbBase 10 =
      [some 0x10, some 0x05, some 0xC0, some 0xEC, some 0x11, some 0xEC, some 0x11, some 0xEC, some 0x11, none] := by
  decide +kernel
/-- P-29: PACK never folds. -/
theorem test_pack_strict : (run (load [0x68]) 0x8129).err = .invalidDataFormat := by decide +kernel
/-- R120: the remainder of the example. -/
theorem test_rsrem :
    let t := run { poke State.reset cwbBase [0x10, 0x20, 0x0C, 0x56, 0x61, 0x80, 0xEC, 0x11, 0xEC, 0x11, 0xEC, 0x11,
      0xEC, 0x11, 0xEC, 0x11] with argB := 0x000A0010 } 0xA
    t.res0 = 10 ∧ t.mem.slice eccbBase 11 = [some 0xA5, some 0x24, some 0xD4, some 0xC1, some 0xED, some 0x36,
      some 0xC7, some 0x87, some 0x2C, some 0x55, none] := by
  decide +kernel
/-- E-13: degree 0. -/
theorem test_rsrem_range : (run { State.reset with argB := 0x10 } 0xA).err = .operandRange := by decide +kernel
/-- E-24: the figures of version 40, level Q. -/
theorem test_augment_figures :
    let t := run State.reset 0x286B
    t.res0 = 3706 ∧ t.res1 = 68 ∧ t.res2 = 30 ∧ t.res3 = 34 := by decide +kernel
/-- E-28: VER 0. -/
theorem test_augment_version : (run State.reset 0x2B).err = .invalidVersion := by decide +kernel
/-- M-4. -/
theorem test_buildbase :
    let t := run State.reset 0x70C
    t.res0 = 45 ∧ t.res1 = 1568 ∧ t.minfoWord = 0x002D0107 := by decide +kernel
/-- R133: the first bits of the byte 0x10 go to the lower right corner, in the order of the scan. -/
theorem test_place_scan :
    (placedBits (scanCells 21 []) (streamBits [0x10])).take 4 =
      [(cellAddr mtxBase 20 20, 0), (cellAddr mtxBase 20 19, 0), (cellAddr mtxBase 19 20, 0),
        (cellAddr mtxBase 19 19, 1)] := by
  decide +kernel
/-- R133: RES1 is the 208 bits of version 1, and the matrix is PLACED. -/
theorem test_place : (run (inPhase .base) 0xD).res1 = 208 ∧ (run (inPhase .base) 0xD).phase = .placed := by
  decide +kernel
/-- M-10. -/
theorem test_place_empty : (run State.reset 0xD).statusWord = 0x86 := by decide +kernel
/-- R145: mask 3 flips MTX[20][19]. -/
theorem test_applymask :
    (run (poke (inPhase .placed) (cellAddr mtxBase 20 19) [0]) 0xC000E).mem.read (cellAddr mtxBase 20 19) =
      some 1 := by
  decide +kernel
/-- S-19. -/
theorem test_writefmt :
    let t := run (inPhase .base) 0xF
    t.res0 = 0x5412 ∧ t.mem.read (cellAddr mtxBase 0 8) = some 0 ∧ t.mem.read (cellAddr mtxBase 1 8) = some 1 ∧
      t.mem.read (cellAddr mtxBase 8 20) = some 0 ∧ t.phase = .base := by
  decide +kernel
/-- S-29. -/
theorem test_writefmt_level : (run (inPhase .base) 0xEF).err = .invalidECCLevel := by decide +kernel
/-- By hand from R138 to R141 on a white square of side 21: 42 lines of 19, 400 blocks of 3, and 10 times 10. -/
theorem test_score :
    let s := { inPhase .placed with mem := State.reset.mem.mapSquare mtxBase 21 fun _ _ _ => some 0 }
    let t := run s 0x10
    t.res1 = 798 ∧ t.res2 = 1200 ∧ t.res3 = 0 ∧ t.res4 = 100 ∧ t.res0 = 2098 := by
  decide +kernel
/-- R148: a forced mask. -/
theorem test_select_forced :
    let t := run (inPhase .placed) 0x000C0011
    t.res0 = 3 ∧ t.res1 = 0xFFFFFFFF ∧ t.phase = .final ∧ t.sb = State.reset.sb := by decide +kernel
/-- S-22: a FINAL matrix is refused. -/
theorem test_select_final : (run (inPhase .final) 0x3C0011).statusWord = 0x86 := by decide +kernel
/-- Q-4: `01234567` with mask 3. -/
theorem test_generate_forced :
    let t := run (load [0x30, 0x31, 0x32, 0x33, 0x34, 0x35, 0x36, 0x37]) 0xC4112
    t.res0 = 3 ∧ t.res1 = 0xFFFFFFFF ∧ t.res2 = 1 ∧ t.res3 = 1 ∧ t.res4 = 26 ∧ t.minfoWord = 0x00150301 := by
  decide +kernel
/-- Q-14, Q-15. -/
theorem test_generate_priority :
    (run State.reset 0x0040C0B2).err = .illegalCommand ∧ (run State.reset 0x0000C0B2).err = .invalidMode := by
  decide +kernel
/-- X-10: only DONE, OVR and ACCERR are cleared by writing 1. -/
theorem test_status_w1c :
    ({ State.reset with tables := some builtTables, done := true }.hostWrite 0x008 32 0xFFFFFFFF).statusWord = 0x8 := by
  decide +kernel
/-- R48, R49: a misaligned 16-bit access gets a bus error, an aligned one does not. -/
theorem test_bus_alignment :
    (State.reset.hostRead 0x7001 16).reply = .busError ∧ (State.reset.hostRead 0x7002 16).reply = .data 0 := by
  decide +kernel
/-- X-13: a CMD write while BUSY. -/
theorem test_cmd_while_busy :
    let t := (flying 0x10C []).hostWrite 0x004 32 0
    t.cmd = 0x10C ∧ t.ovr = true ∧ t.busy = true := by decide +kernel
/-- R74: LOAD of one byte, then a command and its completion. -/
theorem test_script_run :
    scriptLoad [0x37] ++ scriptRun 0x4149 0 = [.host (.write 0x2000 8 0x37), .host (.write 0x010 32 1),
      .host (.write 0x004 32 0x4149), .engine, .host (.read 0x008 32)] := by decide +kernel

/-! ## Witnesses of the obligations -/

theorem witness_DecodingReadsExactlyTheReadFields : decodeTableWord 32 0x003FFFF2 = some (.generate 7 63 15 15) := by
  decide

theorem witness_StepRunsTheDecodedCommand :
    Running (flying 0x10C [.engine]) ∧ (flying 0x10C [.engine]).turns = [.engine] ∧ Running (flying 0x10C []) ∧
      (flying 0x10C []).turns = [] ∧ decodeTableWord 32 0x10C = some (.buildbase 1) ∧
      (decodeBytes (bytesOfWord (flying 0x10C []).cmd)).toOption = some (.buildbase 1, []) := by
  refine ⟨⟨rfl, rfl⟩, rfl, ⟨rfl, rfl⟩, rfl, by decide, by decide⟩

theorem witness_AcceptanceLatchesTheWord :
    Idle { State.reset with turns := [.host (.write 0x004 32 0x10C)] } := ⟨rfl, rfl⟩

theorem witness_OnlyACmdWriteStartsACommand :
    let s : State := { State.reset with turns := [.host (.write 0x004 32 0x10C)] }
    s.busy = false ∧ ∃ t, step s = .next t ∧ t.busy = true :=
  ⟨rfl, _, rfl, rfl⟩

theorem witness_CommandWriteWhileBusyIsDropped :
    Running (flying 0x10C [.host (.write 0x004 32 0)]) := ⟨rfl, rfl⟩

theorem witness_CommandWriteWhileBusyIsDropped_cleared :
    let s : State := { State.reset with ovr := true, turns := [.host (.write 0x008 32 0x100)] }
    s.ovr = true ∧ ∃ t, step s = .next t ∧ t.ovr = false := ⟨rfl, _, rfl, rfl⟩

theorem witness_CommandWriteWhileBusyIsDropped_released :
    let s : State := { State.reset with ovr := true, inReset := true, turns := [.resetRelease] }
    s.ovr = true ∧ ∃ t, step s = .next t ∧ t.ovr = false := ⟨rfl, _, rfl, rfl⟩

theorem witness_AccessesWhileBusyAreGuarded :
    Running (flying 0x10C []) ∧ BufferOrWindow 0x2000 ∧ BufferOrWindow 0x2FFFF ∧ BufferOrWindow 0x75FE ∧
      Aligned 0x2000 32 ∧ Aligned 0x2FFFF 8 ∧ Aligned 0x75FE 16 ∧ 0x03C % 4 = 0 ∧ 0x0FC % 4 = 0 ∧ 0x05C % 4 = 0 := by
  refine ⟨⟨rfl, rfl⟩, ?_⟩
  unfold BufferOrWindow Aligned
  decide

theorem witness_HostWritesInTheBusyWindowLeaveTheCommandAlone :
    Running (flying 0x10C []) ∧ ∃ t, exec (.buildbase 1) (flying 0x10C []) = .next t :=
  ⟨⟨rfl, rfl⟩, _, rfl⟩

theorem witness_ACommandInFlightCompletes :
    let s := flying 0x10C [.host (.read 0x008 32), .engine, .host (.read 0x008 32)]
    Running s ∧ s.turns = [Access.read 0x008 32].map Turn.host ++ .engine :: [.host (.read 0x008 32)] :=
  ⟨⟨rfl, rfl⟩, rfl⟩

theorem witness_TheFirstErrorInOrderIsReported :
    Running (flying 0x86 [.engine]) ∧ (flying 0x86 [.engine]).turns = .engine :: [] ∧
      reportedError 0x86 (flying 0x86 [.engine]) = .invalidMode := ⟨⟨rfl, rfl⟩, rfl, by decide⟩

theorem witness_ReservedWordsCompleteWithIllegalCommand :
    (Running (flying 0x13 [.engine]) ∧ 0x13 ≤ (flying 0x13 [.engine]).cmd.toNat % 32) ∧
      Running (flying 0x400000 [.engine]) ∧ 2 ^ 22 ≤ (flying 0x400000 [.engine]).cmd.toNat :=
  ⟨⟨⟨rfl, rfl⟩, by decide⟩, ⟨rfl, rfl⟩, by decide⟩

theorem witness_BusErrorsAreExactAndHarmless :
    State.reset.inReset = false ∧ GetsBusError 0x100 32 ∧ GetsBusError 0x3FFFF 8 ∧ GetsBusError 0xFE 16 ∧
      GetsBusError 0x2001 16 ∧ ¬ GetsBusError 0xFC 32 ∧ ¬ GetsBusError 0x2FFFF 8 ∧ ¬ GetsBusError 0x601C 32 := by
  refine ⟨rfl, ?_⟩
  simp [GetsBusError, Unmapped, BufferOrWindow, Aligned]

theorem witness_IdleCsrAccessesFollowTheMap : Idle State.reset := ⟨rfl, rfl⟩

theorem witness_StatusAndMinfoFields : State.reset.inReset = false ∧ (inPhase .final).version ≤ 40 :=
  ⟨rfl, by decide⟩

theorem witness_BufferAccessesAreLittleEndian :
    Idle State.reset ∧ Idle (poke State.reset 0x2001 [7]) ∧ (poke State.reset 0x2001 [7]).mem.read 0x2001 = some 7 ∧
      Aligned 0x2000 16 ∧ Aligned 0x601C 32 ∧ Aligned 0x601F 8 := by
  refine ⟨⟨rfl, rfl⟩, ⟨rfl, rfl⟩, by decide, ?_⟩
  unfold Aligned
  decide

theorem reset_memInv : State.reset.MemInv := by
  refine ⟨by decide, ?_⟩
  intro e h; cases h

theorem witness_MatrixWindowsReadAndStoreCells :
    Idle State.reset ∧ State.reset.MemInv ∧ Aligned 0x10000 32 ∧ Aligned 0x1FFFC 32 ∧ Aligned 0x2FFFE 16 ∧
      Aligned 0x2FFFF 8 ∧ 0x1FFFC + 3 = 0x10000 + 256 * 255 + 255 := by
  refine ⟨⟨rfl, rfl⟩, reset_memInv, ?_⟩
  unfold Aligned
  decide

theorem witness_TableWindowsShowTheTables :
    (Idle State.reset ∧ State.reset.TablesInv ∧ State.reset.tables = none) ∧
      Idle { State.reset with tables := some builtTables } ∧
      ({ State.reset with tables := some builtTables } : State).TablesInv ∧
      ({ State.reset with tables := some builtTables } : State).tables ≠ none ∧
      Aligned 0x7000 32 ∧ Aligned 0x75FE 16 ∧ Aligned 0x75FF 8 := by
  refine ⟨⟨⟨rfl, rfl⟩, reset_tablesInv, rfl⟩, ⟨rfl, rfl⟩, ?_, by simp, by simp [Aligned]⟩
  intro t h
  exact (Option.some.inj h).symm

theorem witness_ResetReplacesEverything :
    let s := flying 0x10C [.resetAssert]
    s.turns = .resetAssert :: [] ∧ ∃ t, step s = .next t := ⟨rfl, _, rfl⟩

theorem witness_ResetReplacesEverything_release :
    let s : State := { State.reset with inReset := true, turns := [.resetRelease] }
    s.inReset = true ∧ s.turns = .resetRelease :: [] := ⟨rfl, rfl⟩

theorem witness_IrqFollowsEnableAndDone :
    (∃ t, exec .nop State.reset = .next t) ∧ State.reset.inReset = false ∧ Idle State.reset ∧
      (2 : Word).getLsbD 1 = true :=
  ⟨⟨_, rfl⟩, rfl, ⟨rfl, rfl⟩, by decide⟩

theorem witness_EveryStepKeepsMemoryCanonical :
    (flying 0x10C [.engine]).mem.wf ∧ ∃ t, step (flying 0x10C [.engine]) = .next t :=
  ⟨by decide, _, rfl⟩

theorem reset_inv_with (ts : List Turn) : ({ State.reset with turns := ts } : State).Inv := by
  refine ⟨⟨reset_memInv.1, ?_⟩, ?_, ?_, ?_, ?_, ?_⟩
  · intro e h; cases h
  · intro t h; cases h
  · exact ⟨Nat.zero_le _, fun _ => rfl, fun _ => rfl⟩
  · intro h; exact absurd rfl h
  · intro r c _ _
    exact ⟨fun h => absurd rfl h, fun h => by cases h⟩
  · exact ⟨fun h => (by cases h), fun h => by cases h⟩

theorem witness_EveryStepKeepsTheInvariant :
    let s : State := { State.reset with turns := [.host (.write 0x004 32 0x10C)] }
    s.Inv ∧ ∃ t, step s = .next t :=
  ⟨reset_inv_with _, _, rfl⟩

theorem witness_AFailingCommandChangesNothing :
    ∃ t, exec .place State.reset = .next t ∧ t.err ≠ .ok := ⟨_, rfl, by decide⟩

theorem witness_RegistersACommandLeavesAlone :
    (∃ t, exec .gfmul State.reset = .next t) ∧ 1 ∉ resWritten .gfmul ∧ 0 ∉ resWritten .nop ∧
      ∃ t, exec (.buildbase 1) State.reset = .next t ∧ t.mver ≠ State.reset.mver :=
  ⟨⟨_, rfl⟩, by decide, by decide, _, rfl, by decide⟩

theorem witness_MemoryACommandLeavesAlone :
    State.reset.version ≤ 40 ∧ (∃ t, exec (.buildbase 1) State.reset = .next t) ∧
      ¬ MayWrite (.buildbase 1) State.reset (cellAddr mtxBase 0 21) ∧
      ¬ MayWrite .nop State.reset 0x2000 := by
  refine ⟨by decide, ⟨_, rfl⟩, ?_, fun h => h⟩
  rintro (⟨r, c, hr, hc, h⟩ | ⟨r, c, hr, hc, h⟩) <;>
    simp [cellAddr, mtxBase, rsvBase, sideOf] at h hr hc <;> omega

theorem witness_MatrixPhasesFollowTheTable :
    phaseAllowed .place State.reset.phase = false ∧ phaseAllowed (.select 0 3) (inPhase .final).phase = false ∧
      phaseAllowed .place (inPhase .base).phase = true ∧ ∃ t, exec .place (inPhase .base) = .next t :=
  ⟨rfl, rfl, rfl, _, rfl⟩

theorem witness_TablesAreBuiltLazilyAndKept :
    State.reset.TablesInv ∧ ∃ t, exec .gfmul State.reset = .next t := ⟨reset_tablesInv, _, rfl⟩

theorem witness_GfmulGivesTheFieldProduct :
    let s (a b : Word) : State := { State.reset with argA := a, argB := b }
    (∀ a b, (s a b).TablesInv) ∧ (s 0xFF 0xFF).argA.toNat ≤ 0xFF ∧ (s 0xFF 0xFF).argB.toNat ≤ 0xFF ∧
      0xFF < (s 0x100 0).argA.toNat ∧ 0xFF < (s 0 0x100).argB.toNat :=
  ⟨fun _ _ _ h => (by cases h), by decide, by decide, by decide, by decide⟩

theorem witness_GfexpAndGflogAreInverse :
    let s (a : Word) : State := { State.reset with argA := a }
    (∀ a, (s a).TablesInv) ∧ (s 254).argA.toNat ≤ 254 ∧ 254 < (s 255).argA.toNat ∧ (s 255).argA.toNat ≤ 255 ∧
      255 < (s 256).argA.toNat ∧ (s 0).argA = 0 ∧ (s 1).argA ≠ 0 :=
  ⟨fun _ _ h => (by cases h), by decide, by decide, by decide, by decide, rfl, by decide⟩

theorem witness_GenrdGivesTheCoefficient :
    let s (a b : Word) : State := { State.reset with argA := a, argB := b }
    (∀ a b, (s a b).TablesInv) ∧ (1 ≤ (s 30 29).argA.toNat ∧ (s 30 29).argA.toNat ≤ 30 ∧
      (s 30 29).argB.toNat < (s 30 29).argA.toNat) ∧ (s 0 0).argA.toNat = 0 ∧ 30 < (s 31 0).argA.toNat ∧
      (s 1 1).argA.toNat ≤ (s 1 1).argB.toNat :=
  ⟨fun _ _ _ h => (by cases h), by decide, rfl, by decide, by decide⟩

theorem witness_CapqReportsTheCapacities :
    ((3 : BitVec 3).toNat = levelCode .q ∧ (4 : BitVec 4).toNat = modeCode .octet ∧ IsVersion (40 : BitVec 6).toNat) ∧
      ((8 : BitVec 4).toNat ≠ 1 ∧ (8 : BitVec 4).toNat ≠ 2 ∧ (8 : BitVec 4).toNat ≠ 4) ∧
      3 < (4 : BitVec 3).toNat ∧ ¬ IsVersion (0 : BitVec 6).toNat ∧ ¬ IsVersion (41 : BitVec 6).toNat := by
  unfold IsVersion
  decide

theorem witness_BchqGivesTheBchCodes :
    ((3 : BitVec 3).toNat ≤ 3 ∧ IsVersion (1 : BitVec 6).toNat ∧ (7 : BitVec 4).toNat ≤ 7) ∧
      7 ≤ (7 : BitVec 6).toNat ∧ 3 < (4 : BitVec 3).toNat ∧ ¬ IsVersion (41 : BitVec 6).toNat ∧
      7 < (8 : BitVec 4).toNat := by
  unfold IsVersion
  decide

theorem witness_ValidateReportsAndFolds :
    let s := load [0x68, 0x65]
    (2 : BitVec 4).toNat = 2 ∧ s.len.toNat ≤ 8192 ∧ workingMode 2 s.inputBytes = .alphanumeric ∧
      validFor (workingMode 2 s.inputBytes) s.inputBytes s.sampledFold = true := by
  decide +kernel

theorem witness_DetectionAndFoldingFollowTheRules :
    Mode.octet ≠ .alphanumeric ∧ validFor .alphanumeric [0x68] true = true ∧ validFor .numeric [0x31] false = true := by
  decide

theorem witness_AcceptedDataFitsItsCodewords :
    IsVersion 1 ∧ ([0x31] : List Byte).length ≤ maxDataLength 1 .numeric .l ∧ IsVersion 40 ∧
      validFor .numeric [0x31] false = true := by
  unfold IsVersion
  decide

theorem witness_PackWritesTheCodewords :
    let s := load [0x37]
    (2 : BitVec 3).toNat = levelCode .h ∧ (1 : BitVec 4).toNat = modeCode .numeric ∧ IsVersion (1 : BitVec 6).toNat ∧
      s.len.toNat ≤ 8192 ∧ validFor .numeric s.inputBytes false = true ∧
      s.len.toNat ≤ maxDataLength 1 .numeric .h := by
  unfold IsVersion
  decide +kernel

theorem witness_RsremWritesTheRemainder :
    let s (a b : Word) : State := { State.reset with argA := a, argB := b }
    (∀ a b, (s a b).TablesInv) ∧
      ((s 4095 0x1E0001).argA.toNat ≤ 4095 ∧ (s 4095 0x1E0001).argB.toNat < 2 ^ 24 ∧
        1 ≤ (s 4095 0x1E0001).argB.toNat / 2 ^ 16 ∧ (s 4095 0x1E0001).argB.toNat / 2 ^ 16 ≤ 30 ∧
        (s 4095 0x1E0001).argA.toNat + (s 4095 0x1E0001).argB.toNat % 2 ^ 16 ≤ 4096) ∧
      4095 < (s 4096 0).argA.toNat ∧ 2 ^ 24 ≤ (s 0 0x01010000).argB.toNat ∧ 30 < (s 0 0x1F0000).argB.toNat / 2 ^ 16 :=
  ⟨fun _ _ _ h => (by cases h), by decide, by decide, by decide, by decide⟩

theorem witness_AugmentInterleavesTheBlocks :
    State.reset.TablesInv ∧ (3 : BitVec 3).toNat = levelCode .q ∧ IsVersion (5 : BitVec 6).toNat ∧
      3 < (4 : BitVec 3).toNat ∧ ¬ IsVersion (0 : BitVec 6).toNat := by
  refine ⟨reset_tablesInv, ?_⟩
  unfold IsVersion
  decide

theorem witness_BuildbaseWritesTheFixedPatterns :
    IsVersion (1 : BitVec 6).toNat ∧ IsVersion (40 : BitVec 6).toNat ∧ ¬ IsVersion (0 : BitVec 6).toNat ∧
      ¬ IsVersion (41 : BitVec 6).toNat := by
  unfold IsVersion
  decide

theorem witness_FixedPatternsInEveryVersion :
    IsVersion 1 ∧ IsVersion 7 ∧ IsVersion 40 ∧ 1 < (alignTable.getD (2 - 1) []).length := by
  unfold IsVersion
  decide

theorem witness_ScanVisitsEachFreeCellOnce :
    IsVersion 1 ∧ ∀ r, r < 4 * 1 + 17 → cellAt (List.replicate 21 (List.replicate 21 true)) r 6 = true := by
  unfold IsVersion
  decide

theorem witness_PlaceFillsTheScannedCells :
    State.reset.phase = .empty ∧ (inPhase .base).phase ≠ .empty ∧ (inPhase .base).version ≤ 40 := by decide

theorem witness_ApplymaskFlipsTheMaskedDataCells :
    State.reset.phase = .empty ∧ (inPhase .base).phase = .base ∧ 7 < (8 : BitVec 4).toNat ∧
      (inPhase .placed).phase = .placed ∧ (inPhase .final).phase = .final ∧ (inPhase .placed).version ≤ 40 ∧
      (7 : BitVec 4).toNat ≤ 7 := by decide

theorem witness_WritefmtWritesBothStrips :
    State.reset.phase = .empty ∧ (inPhase .base).phase ≠ .empty ∧ IsVersion (inPhase .base).version ∧
      3 < (4 : BitVec 3).toNat ∧ (3 : BitVec 3).toNat ≤ 3 ∧ (7 : BitVec 4).toNat ≤ 7 ∧ 7 < (15 : BitVec 4).toNat := by
  unfold IsVersion
  decide

theorem witness_ScoreReportsTheFourPenalties :
    (inPhase .placed).phase = .placed ∧ (inPhase .final).phase = .final ∧ State.reset.phase = .empty ∧
      (inPhase .base).phase = .base := by decide

theorem witness_PenaltyBCountsTheBlocks : IsGrid 2 [[true, false], [false, false]] := by
  unfold IsGrid
  decide

theorem witness_PenaltyDIsExact : 0 < 441 ∧ 220 ≤ 441 := by decide

theorem witness_ForcedSelectCommitsTheMask :
    (inPhase .placed).phase = .placed ∧ IsVersion (inPhase .placed).version ∧ (1 : BitVec 3).toNat = levelCode .l ∧
      (7 : BitVec 4).toNat ≤ 7 := by
  unfold IsVersion
  decide

theorem witness_AutomaticSelectCommitsTheBestMask :
    (inPhase .placed).phase = .placed ∧ IsVersion (inPhase .placed).version ∧ (0 : BitVec 3).toNat = levelCode .m := by
  unfold IsVersion
  decide

theorem witness_GenerateBuildsTheSymbol :
    (load [0x37]).TablesInv ∧ GenerateAccepts (load [0x37]) 2 0 0 15 .h 1 ∧ GenerateAccepts (load [0x37]) 2 1 1 7 .h 1 := by
  refine ⟨fun _ h => (by cases h), ⟨rfl, by decide, by decide, by decide +kernel, ⟨by decide, by decide⟩, by decide +kernel,
    .inr ⟨rfl, fun u h1 h2 => by omega⟩, by decide⟩, rfl, by decide, by decide, by decide +kernel, ⟨by decide, by decide⟩,
    by decide +kernel, .inl rfl, by decide⟩

theorem witness_GenerateIsTheSequenceOfCommands_folded :
    (load [0x61]).TablesInv ∧ GenerateAccepts (load [0x61]) 1 0 2 15 .l 1 ∧
      foldedInput (load [0x61]) .alphanumeric = [0x41] := by
  refine ⟨fun _ h => (by cases h), ⟨rfl, by decide, by decide, by decide +kernel, ⟨by decide, by decide⟩, by decide +kernel,
    .inr ⟨rfl, fun u h1 h2 => by omega⟩, by decide⟩, by decide +kernel⟩

theorem witness_GenerateIsTheSequenceOfCommands :
    let s := load [0x37]
    s.TablesInv ∧ (2 : BitVec 3).toNat = levelCode .h ∧ (1 : BitVec 4).toNat = modeCode .numeric ∧
      IsVersion (1 : BitVec 6).toNat ∧ s.len.toNat ≤ 8192 ∧ validFor .numeric s.inputBytes false = true ∧
      s.len.toNat ≤ maxDataLength 1 .numeric .h ∧ (15 : BitVec 4).toNat = 15 := by
  refine ⟨fun _ h => (by cases h), rfl, rfl, ⟨by decide, by decide⟩, by decide, by decide +kernel, by decide +kernel,
    rfl⟩

theorem witness_EngineReadsFollowMemory :
    let s := { inPhase .base with mem := Memory.write [] (cellAddr mtxBase 20 20) 1 }
    20 < s.side ∧ s.mem.read (0x10000 + 256 * 20 + 20) = some 1 := by
  decide +kernel

end Sys2Proof.Tests
end

section
/-! SUPPORT. What a host access and a command can do, said once: the inversion lemmas of the host's turns and of
`exec`, from which the statements about every step are derived. -/

namespace Sys2Proof.Machine

open Sys2Proof.Claims

/-! ## The host's accesses -/

/-- A read changes only the answer, the draw counter and ACCERR (R51, R52). -/
theorem State.hostRead_frame (s : State) (a width : Nat) :
    ∃ r n x, s.hostRead a width = { s with reply := r, draws := n, accerr := x } := by
  unfold State.hostRead
  split
  · exact ⟨_, _, _, rfl⟩
  split
  · exact ⟨_, s.draws, _, rfl⟩
  split
  · exact ⟨_, _, _, rfl⟩
  split
  · exact ⟨_, _, _, rfl⟩
  · exact ⟨_, _, _, rfl⟩

/-- `t` is `s` but for the registers a host write may change; DONE only falls (R26 to R29, R52). -/
def State.WroteRegisters (s t : State) : Prop :=
  (t.done = true → s.done = true) ∧
  t = { s with
    done := t.done, ovr := t.ovr, accerr := t.accerr, ie := t.ie, fold := t.fold,
    len := t.len, argA := t.argA, argB := t.argB, reply := t.reply }

/-- A CSR write accepts a command, which only offset 0x004 of an idle machine does (R60), or changes the
registers the host writes. -/
theorem State.writeCsr_cases (s : State) (a : Nat) (w : Word) :
    (a = 0x004 ∧ s.busy = false ∧ s.writeCsr a w = s.accept w) ∨ s.WroteRegisters (s.writeCsr a w) := by
  unfold State.writeCsr
  split
  · exact .inr ⟨id, rfl⟩
  split
  · split
    · exact .inr ⟨id, rfl⟩
    · next h => exact .inl ⟨rfl, by simpa using h, rfl⟩
  · exact .inr ⟨fun h => (Bool.and_eq_true_iff.mp h).1, rfl⟩
  all_goals exact .inr ⟨id, rfl⟩

/-- A host write accepts a command, stores bytes in memory, or changes the registers the host writes. -/
theorem State.hostWrite_cases (s : State) (a width : Nat) (w : Word) :
    (a = 0x004 ∧ width = 32 ∧ s.busy = false ∧ s.inReset = false ∧
      s.hostWrite a width w = { s.accept w with reply := .done }) ∨
    (∃ n, s.hostWrite a width w = { s with reply := .done, mem := hostStoreBytes s.mem a n w }) ∨
    s.WroteRegisters (s.hostWrite a width w) := by
  unfold State.hostWrite
  split
  · exact .inr (.inr ⟨id, rfl⟩)
  next hreset =>
  split
  · exact .inr (.inr ⟨id, rfl⟩)
  next hlegal =>
  split
  · obtain ⟨rfl, hidle, hacc⟩ | ⟨hdone, hframe⟩ := s.writeCsr_cases a w
    · have hwidth : width = 32 := by simpa [accessLegal, regionOf] using hlegal
      exact .inl ⟨rfl, hwidth, hidle, by simpa using hreset, by rw [hacc]⟩
    · exact .inr (.inr ⟨hdone, by rw [hframe]⟩)
  split
  · exact .inr (.inr ⟨id, rfl⟩)
  · exact .inr (.inl ⟨_, rfl⟩)

/-! ## The commands -/

/-- What a command that completes without error leaves before its completion, the values of the result registers
left open: an outcome for each rule's list of effects (R82, R114 to R121, R132, R133, R145 to R151). -/
inductive State.Effect (s : State) : Instr → State → Prop where
  | nop : Effect s .nop s
  | tblinit : Effect s .tblinit { s with tables := some builtTables }
  | gfmul (x : Word) : Effect s .gfmul { s.needTables with res0 := x }
  | gfexp (x : Word) : Effect s .gfexp { s.needTables with res0 := x }
  | gflog (x : Word) : Effect s .gflog { s.needTables with res0 := x }
  | genrd (x y : Word) : Effect s .genrd { s.needTables with res0 := x, res1 := y }
  | capq {ecc ver mode} (x y z u v : Word) :
      Effect s (.capq ecc ver mode) { s with res0 := x, res1 := y, res2 := z, res3 := u, res4 := v }
  | bchq {ecc ver mask} (x y : Word) : Effect s (.bchq ecc ver mask) { s with res0 := x, res1 := y }
  | validate {mode} (m : Memory) (x y : Word)
      (hmem : m = s.mem ∨ ∃ vs, vs.length ≤ ibufSize ∧ m = s.mem.setRange ibufBase vs) :
      Effect s (.validate mode) { s.drew s.len.toNat with mem := m, res0 := x, res1 := y }
  | pack {ecc ver mode} (v : Nat) (e : Level) (mo : Mode) (data : List Byte) (x y : Word)
      (hv : versionOf ver = some v) :
      Effect s (.pack ecc ver mode)
        { (s.drew s.len.toNat).packInto v e mo data with res0 := x, res1 := y }
  | rsrem (blk : List Byte) (hk : s.remDegree ≤ 30) (x : Word) :
      Effect s .rsrem { s.needTables.drew s.remLen with
        mem := s.mem.writeBytes eccbBase (remainder s.gf s.remDegree blk), res0 := x }
  | augment {ecc ver} (v : Nat) (e : Level) (x y z u : Word) (hv : versionOf ver = some v) :
      Effect s (.augment ecc ver) { s.augmentInto v e with res0 := x, res1 := y, res2 := z, res3 := u }
  | buildbase {ver} (v : Nat) (x y : Word) (hv : versionOf ver = some v) :
      Effect s (.buildbase ver) { s.buildBaseInto v with res0 := x, res1 := y }
  | place (x y : Word) (hbase : s.hasBase = true) : Effect s .place { s.placeInto with res0 := x, res1 := y }
  | applymask {mask} (m : Nat) : Effect s (.applymask mask) (s.maskInto m)
  | writefmt {ecc mask} (e : Level) (m : Nat) (x : Word) :
      Effect s (.writefmt ecc mask) { s.formatInto e m with res0 := x }
  | score (n : Nat) (x y z u v : Word) :
      Effect s .score { s.drew n with res0 := x, res1 := y, res2 := z, res3 := u, res4 := v }
  | select {ecc mask} (e : Level) (c : Choice Nat) (hplaced : s.phase = .placed) (hc : maskChoice mask = some c) :
      Effect s (.select ecc mask) (s.selectMask e c)
  | generate {ecc ver mode mask} (v : Nat) (e : Level) (mo : Mode) (data : List Byte) (c : Choice Nat)
      (x y z : Word) (hv : resolveVersion ver s.len.toNat mo e = .ok v) (hc : maskChoice mask = some c) :
      Effect s (.generate ecc ver mode mask)
        { (s.drew s.len.toNat).generateInto v e mo data c with res2 := x, res3 := y, res4 := z }

/-- How a command ends: with an error, which changes nothing but the draw counter, or with its effect and then
completion. -/
inductive State.Ends (s : State) (i : Instr) : Host.Outcome State Fault Refusal → Prop where
  | fails (n : Nat) (e : ErrCode) : Ends s i (.next ((s.drew n).raise e))
  | succeeds {u : State} (h : s.Effect i u) : Ends s i (.next u.finish)

theorem State.ends_raise (s : State) (i : Instr) (e : ErrCode) : s.Ends i (.next (s.raise e)) := .fails 0 e

theorem execValidate_ends (mode : BitVec 4) (s : State) : s.Ends (.validate mode) (execValidate mode s) := by
  unfold execValidate
  split
  · exact s.ends_raise _ _
  split
  · exact s.ends_raise _ _
  next hlen =>
  dsimp only
  split
  · exact .fails _ _
  refine .succeeds (.validate _ _ _ ?_)
  split
  · refine .inr ⟨_, ?_, rfl⟩
    simpa [State.inputBytes] using hlen
  · exact .inl rfl

theorem execPack_ends (ecc : BitVec 3) (ver : BitVec 6) (mode : BitVec 4) (s : State) :
    s.Ends (.pack ecc ver mode) (execPack ecc ver mode s) := by
  unfold execPack
  split
  · exact s.ends_raise _ _
  split
  · exact s.ends_raise _ _
  dsimp only
  split
  · exact .fails _ _
  split
  · exact .fails _ _
  split
  · exact .fails _ _
  next hv =>
  split
  · exact .fails _ _
  · exact .succeeds (.pack _ _ _ _ _ _ hv)

theorem execGenerate_ends (ecc : BitVec 3) (ver : BitVec 6) (mode mask : BitVec 4) (s : State) :
    s.Ends (.generate ecc ver mode mask) (execGenerate ecc ver mode mask s) := by
  unfold execGenerate
  split
  · exact s.ends_raise _ _
  split
  · exact s.ends_raise _ _
  dsimp only
  split
  · exact .fails _ _
  split
  · exact .fails _ _
  split
  · exact .fails _ _
  next hv =>
  split
  · exact .fails _ _
  next hc =>
  exact .succeeds (.generate _ _ _ _ _ _ _ _ hv hc)

theorem execRsrem_ends (s : State) : s.Ends .rsrem (execRsrem s) := by
  unfold execRsrem
  dsimp only
  split
  · next h =>
    obtain ⟨-, -, -, hk, -⟩ := h
    exact .succeeds (.rsrem _ hk _)
  · exact s.ends_raise _ _

theorem execSelect_ends (ecc : BitVec 3) (mask : BitVec 4) (s : State) :
    s.Ends (.select ecc mask) (execSelect ecc mask s) := by
  unfold execSelect
  split
  · next hplaced =>
    split
    · exact s.ends_raise _ _
    split
    · exact s.ends_raise _ _
    · next hc => exact .succeeds (.select _ _ hplaced hc)
  · exact s.ends_raise _ _

/-- Every command ends with an error or with its effect (R160, R161). -/
theorem exec_ends (i : Instr) (s : State) : s.Ends i (exec i s) := by
  cases i with
  | nop => exact .succeeds .nop
  | tblinit => exact .succeeds .tblinit
  | gfmul =>
    simp only [exec, execGfmul]
    split
    · exact .succeeds (.gfmul _)
    · exact s.ends_raise _ _
  | gfexp =>
    simp only [exec, execGfexp]
    split
    · exact .succeeds (.gfexp _)
    · exact s.ends_raise _ _
  | gflog =>
    simp only [exec, execGflog]
    split
    · exact .succeeds (.gflog _)
    · exact s.ends_raise _ _
  | genrd =>
    simp only [exec, execGenrd]
    split
    · exact .succeeds (.genrd _ _)
    · exact s.ends_raise _ _
  | capq ecc ver mode =>
    simp only [exec, execCapq]
    split
    · exact s.ends_raise _ _
    split
    · exact s.ends_raise _ _
    split
    · exact s.ends_raise _ _
    · exact .succeeds (.capq _ _ _ _ _)
  | bchq ecc ver mask =>
    simp only [exec, execBchq]
    split
    · exact s.ends_raise _ _
    split
    · exact s.ends_raise _ _
    split
    · exact s.ends_raise _ _
    · exact .succeeds (.bchq _ _)
  | validate mode => exact execValidate_ends mode s
  | pack ecc ver mode => exact execPack_ends ecc ver mode s
  | rsrem => exact execRsrem_ends s
  | augment ecc ver =>
    simp only [exec, execAugment]
    split
    · exact s.ends_raise _ _
    split
    · exact s.ends_raise _ _
    · next hv => exact .succeeds (.augment _ _ _ _ _ _ hv)
  | buildbase ver =>
    simp only [exec, execBuildbase]
    split
    · exact s.ends_raise _ _
    · next hv => exact .succeeds (.buildbase _ _ _ hv)
  | place =>
    simp only [exec, execPlace]
    split
    · next hbase => exact .succeeds (.place _ _ hbase)
    · exact s.ends_raise _ _
  | applymask mask =>
    simp only [exec, execApplymask]
    split
    · split
      · exact s.ends_raise _ _
      · exact .succeeds (.applymask _)
    · exact s.ends_raise _ _
  | writefmt ecc mask =>
    simp only [exec, execWritefmt]
    split
    · split
      · exact s.ends_raise _ _
      split
      · exact s.ends_raise _ _
      · exact .succeeds (.writefmt _ _ _)
    · exact s.ends_raise _ _
  | score =>
    simp only [exec, execScore]
    split
    · exact .succeeds (.score _ _ _ _ _ _)
    · exact s.ends_raise _ _
  | select ecc mask => exact execSelect_ends ecc mask s
  | generate ecc ver mode mask => exact execGenerate_ends ecc ver mode mask s

/-- A command that answers a next state: the error case and the effect case. -/
theorem exec_cases {i : Instr} {s t : State} (h : exec i s = .next t) :
    (∃ n e, t = (s.drew n).raise e) ∨ ∃ u, s.Effect i u ∧ t = u.finish := by
  have hends := exec_ends i s
  rw [h] at hends
  cases hends with
  | fails n e => exact .inl ⟨n, e, rfl⟩
  | succeeds hu => exact .inr ⟨_, hu, rfl⟩

/-! ## The turns -/

/-- The engine's turn does nothing, runs the command in flight, or completes a reserved word with
IllegalCommand (R20, R72, R169). -/
theorem State.engineTurn_cases (s : State) :
    ((s.inReset = true ∨ s.busy = false) ∧ s.engineTurn = .next s) ∨
    (∃ i, decodeWord s.cmd = .ok i ∧ s.engineTurn = exec i s) ∨
    s.engineTurn = .next (s.raise .illegalCommand) := by
  unfold State.engineTurn
  split
  · next h => exact .inl ⟨by simpa using h, rfl⟩
  split
  · next hi => exact .inr (.inl ⟨_, hi, rfl⟩)
  · exact .inr (.inr rfl)

end Sys2Proof.Machine
end

section
/-! SUPPORT. Which bytes memory may list: each write of the host and of a command keeps memory canonical and
its entries legal (10_state.md R36, R37). -/

namespace Sys2Proof.Machine

open Sys2Proof.Claims

/-- The byte may stand at the offset: storage, and 0 or 1 in a matrix cell. -/
def LegalAt (a : Nat) (b : Byte) : Prop := isStorage a = true ∧ (mtxBase ≤ a → b.toNat ≤ 1)

/-- Canonical memory of legal bytes. -/
def Memory.Legal (m : Memory) : Prop := m.wf ∧ ∀ e ∈ m, LegalAt e.1 e.2

/-! ## Storage -/

/-- The four buffers lie one after the other (20_memory.md R44). -/
theorem regionOf_buffer (a : Nat) (h : 0x2000 ≤ a) (h' : a ≤ 0x601F) :
    regionOf a = .ibuf ∨ regionOf a = .cwb ∨ regionOf a = .ilb ∨ regionOf a = .eccb := by
  unfold regionOf
  rw [if_neg (by omega), if_neg (by omega)]
  split
  · exact .inl rfl
  split
  · exact .inr (.inl rfl)
  split
  · exact .inr (.inr (.inl rfl))
  · exact .inr (.inr (.inr rfl))

/-- A buffer byte is unwritten until it is written. -/
theorem unlisted_buffer (a : Nat) (h : 0x2000 ≤ a) (h' : a ≤ 0x601F) : unlisted a = none := by
  obtain hr | hr | hr | hr := regionOf_buffer a h h' <;> simp [unlisted, hr]

theorem legalAt_buffer (a : Nat) (b : Byte) (h : 0x2000 ≤ a) (h' : a ≤ 0x601F) : LegalAt a b := by
  refine ⟨?_, fun hm => by unfold mtxBase at hm; omega⟩
  obtain hr | hr | hr | hr := regionOf_buffer a h h' <;> simp [isStorage, hr]

theorem isCell_cellAddr (base r c : Nat) (hbase : base % 0x10000 = 0) (hr : r < maxSide) (hc : c < maxSide) :
    isCell (cellAddr base r c) = true := by
  unfold maxSide at hr hc
  unfold isCell rowOf colOf cellAddr maxSide
  simp only [Bool.and_eq_true, decide_eq_true_eq]
  omega

/-- A cell of MTX or RSV is storage. -/
theorem isStorage_cellAddr (base r c : Nat) (hbase : base = mtxBase ∨ base = rsvBase) (hr : r < maxSide)
    (hc : c < maxSide) : isStorage (cellAddr base r c) = true := by
  have hcell := isCell_cellAddr base r c (by unfold mtxBase rsvBase at hbase; omega) hr hc
  unfold maxSide at hr hc
  obtain rfl | rfl := hbase
  · have hreg : regionOf (cellAddr mtxBase r c) = .mtxwin :=
      regionOf_mtxwin _ (by unfold cellAddr mtxBase; omega) (by unfold cellAddr mtxBase; omega)
    simp [isStorage, hreg, hcell]
  · have hreg : regionOf (cellAddr rsvBase r c) = .rsvwin :=
      regionOf_rsvwin _ (by unfold cellAddr rsvBase; omega) (by unfold cellAddr rsvBase; omega)
    simp [isStorage, hreg, hcell]

/-- What an unlisted offset reads as is unwritten or 0. -/
theorem unlisted_eq_zero {a : Nat} {b : Byte} (h : unlisted a = some b) : b = 0 := by
  unfold unlisted at h
  cases hr : regionOf a <;> simp only [hr, reduceCtorEq, Option.some.injEq] at h
  case mtxwin =>
    split at h
    · cases h
    · exact (Option.some.inj h).symm
  all_goals exact h.symm

/-- A cell byte is 0 or 1. -/
theorem toNat_cellByte_le (b : Bool) : (cellByte b).toNat ≤ 1 := by cases b <;> decide

/-- A matrix cell reads as 0 or 1. -/
theorem Memory.Legal.read_le {m : Memory} (hm : m.Legal) {a : Nat} {b : Byte} (ha : mtxBase ≤ a)
    (hread : m.read a = some b) : b.toNat ≤ 1 := by
  unfold Memory.read at hread
  split at hread
  · next e he =>
    cases hread
    have hea : e.1 = a := by simpa using List.find?_some he
    exact (hm.2 e (List.mem_of_find?_eq_some he)).2 (hea ▸ ha)
  · rw [unlisted_eq_zero hread]
    decide

/-! ## Writes of a range -/

/-- Every entry of a range is one of its contents at its offset. -/
theorem Memory.getElem?_of_mem_entries {a : Nat} {vs : List (Option Byte)} {e : Host.Cell}
    (h : e ∈ Memory.entries a vs) : ∃ i, e.1 = a + i ∧ vs[i]? = some (some e.2) := by
  induction vs generalizing a with
  | nil => cases h
  | cons v vs ih =>
    have tail : e ∈ Memory.entries (a + 1) vs → ∃ i, e.1 = a + i ∧ (v :: vs)[i]? = some (some e.2) := fun h => by
      obtain ⟨i, hi, hv⟩ := ih h
      exact ⟨i + 1, by omega, by simpa using hv⟩
    cases v with
    | none => exact tail h
    | some b =>
      rw [Memory.entries] at h
      split at h
      · exact tail h
      · rcases List.mem_cons.mp h with rfl | h
        · exact ⟨0, rfl, rfl⟩
        · exact tail h

theorem Memory.Legal.setRange {m : Memory} (hm : m.Legal) (a : Nat) (vs : List (Option Byte))
    (h : ∀ i b, vs[i]? = some (some b) → LegalAt (a + i) b) : (m.setRange a vs).Legal := by
  refine ⟨m.setRange_wf hm.1 a vs, fun e he => ?_⟩
  unfold Memory.setRange at he
  rcases List.mem_append.mp he with he | he
  · rcases List.mem_append.mp he with he | he
    · exact hm.2 e (List.mem_filter.mp he).1
    · obtain ⟨i, hi, hv⟩ := Memory.getElem?_of_mem_entries he
      exact hi ▸ h i e.2 hv
  · exact hm.2 e (List.mem_filter.mp he).1

theorem Memory.Legal.write {m : Memory} (hm : m.Legal) {a : Nat} {b : Byte} (h : LegalAt a b) :
    (m.write a b).Legal := by
  refine hm.setRange a _ fun i b' hb => ?_
  obtain ⟨rfl, rfl⟩ : i = 0 ∧ b = b' := by simpa [List.getElem?_singleton] using hb
  exact h

/-- A range inside the buffers may take any contents. -/
theorem Memory.Legal.setRange_buffer {m : Memory} (hm : m.Legal) (a : Nat) (vs : List (Option Byte))
    (ha : 0x2000 ≤ a) (hlen : a + vs.length ≤ 0x6020) : (m.setRange a vs).Legal := by
  refine hm.setRange a vs fun i b hb => ?_
  have hi : i < vs.length := (List.getElem?_eq_some_iff.mp hb).1
  exact legalAt_buffer _ _ (by omega) (by omega)

/-- A rewriting of cells that turns cells of 0 and 1 into cells of 0 and 1. -/
def KeepsCells (f : Nat → Nat → Option Byte → Option Byte) : Prop :=
  ∀ r c x b, (∀ y, x = some y → y.toNat ≤ 1) → f r c x = some b → b.toNat ≤ 1

theorem Memory.Legal.mapRow {m : Memory} (hm : m.Legal) {base n r : Nat} {f : Nat → Nat → Option Byte → Option Byte}
    (hbase : base = mtxBase ∨ base = rsvBase) (hn : n ≤ maxSide) (hr : r < n) (hf : KeepsCells f) :
    (m.mapRow base n f r).Legal := by
  refine hm.setRange _ _ fun i b hb => ?_
  have hi : i < n := by simpa using (List.getElem?_eq_some_iff.mp hb).1
  have haddr : cellAddr base r 0 + i = cellAddr base r i := rfl
  rw [haddr]
  refine ⟨isStorage_cellAddr base r i hbase (by omega) (by omega), fun hle => ?_⟩
  rw [List.getElem?_mapIdx, Memory.getElem?_slice _ _ _ _ hi, haddr] at hb
  exact hf r i _ b (fun y hy => hm.read_le hle hy) (Option.some.inj hb)

theorem Memory.Legal.mapSquare {m : Memory} (hm : m.Legal) {base n : Nat} {f : Nat → Nat → Option Byte → Option Byte}
    (hbase : base = mtxBase ∨ base = rsvBase) (hn : n ≤ maxSide) (hf : KeepsCells f) :
    (m.mapSquare base n f).Legal := by
  have hrows : ∀ (rows : List Nat) (m : Memory), m.Legal → (∀ r ∈ rows, r < n) →
      (rows.foldl (Memory.mapRow base n f) m).Legal := by
    intro rows
    induction rows with
    | nil => exact fun m hm _ => hm
    | cons r rows ih =>
      intro m hm hlt
      exact ih _ (hm.mapRow hbase hn (hlt r (by simp)) hf) fun r' hr' => hlt r' (by simp [hr'])
  exact hrows _ m hm fun r hr => by simpa using hr

/-! ## The host's stores -/

/-- From MTX on there are only the matrix windows and unmapped offsets (20_memory.md R44). -/
theorem regionOf_matrix (a : Nat) (h : mtxBase ≤ a) :
    regionOf a = .mtxwin ∨ regionOf a = .rsvwin ∨ regionOf a = .unmapped := by
  unfold mtxBase at h
  by_cases h1 : a ≤ 0x1FFFF
  · exact .inl (regionOf_mtxwin a h h1)
  by_cases h2 : a ≤ 0x2FFFF
  · exact .inr (.inl (regionOf_rsvwin a (by omega) h2))
  · simp (disch := omega) only [regionOf, if_neg, or_true]

/-- One stored byte is ignored, or written as a byte that may stand there, and not in RSVWIN (R44 to R46). -/
theorem hostStore_cases (m : Memory) (a : Nat) (b : Byte) :
    hostStore m a b = m ∨
      ∃ b', LegalAt a b' ∧ regionOf a ≠ .rsvwin ∧ hostStore m a b = m.write a b' := by
  have hbuffer (h : isStorage a = true) (hr : regionOf a ≠ .mtxwin ∧ regionOf a ≠ .rsvwin ∧ regionOf a ≠ .unmapped) :
      LegalAt a b := ⟨h, fun hle => by obtain h | h | h := regionOf_matrix a hle <;> simp [h] at hr⟩
  unfold hostStore
  cases hr : regionOf a with
  | ibuf | cwb | ilb | eccb =>
    exact .inr ⟨b, hbuffer (by simp [isStorage, hr]) (by simp [hr]), by simp, rfl⟩
  | mtxwin =>
    by_cases hcell : isCell a = true
    · exact .inr ⟨_, ⟨by simp [isStorage, hr, hcell], fun _ => toNat_cellByte_le _⟩, by simp, if_pos hcell⟩
    · exact .inl (if_neg hcell)
  | csr | expwin | logwin | genwin | rsvwin | unmapped => exact .inl rfl

theorem Memory.Legal.hostStoreBytes {m : Memory} (hm : m.Legal) (a n : Nat) (w : Word) :
    (hostStoreBytes m a n w).Legal :=
  List.foldlRecOn (motive := Memory.Legal) _ _ hm fun m' hm' i _ => by
    obtain heq | ⟨b, hlegal, -, heq⟩ := hostStore_cases m' (a + i) (w.extractLsb' (8 * i) 8)
    · rwa [heq]
    · exact heq ▸ hm'.write hlegal

/-- A host store leaves RSV alone (20_memory.md R46). -/
theorem read_hostStoreBytes_rsv (m : Memory) (a n x : Nat) (w : Word) (hx : regionOf x = .rsvwin) :
    (hostStoreBytes m a n w).read x = m.read x :=
  List.foldlRecOn (motive := fun m' : Memory => m'.read x = m.read x) _ _ rfl fun m' hm' i _ => by
    obtain heq | ⟨b, -, hregion, heq⟩ := hostStore_cases m' (a + i) (w.extractLsb' (8 * i) 8)
    · rwa [heq]
    · rw [heq, Memory.read_write_other _ _ _ _ fun h : x = a + i => hregion (h ▸ hx), hm']

/-- A written byte stays written under a host store. -/
theorem isSome_read_hostStoreBytes (m : Memory) (a n x : Nat) (w : Word) (hx : (m.read x).isSome = true) :
    ((hostStoreBytes m a n w).read x).isSome = true :=
  List.foldlRecOn (motive := fun m' : Memory => (m'.read x).isSome = true) _ _ hx fun m' hm' i _ => by
    obtain heq | ⟨b, -, -, heq⟩ := hostStore_cases m' (a + i) (w.extractLsb' (8 * i) 8)
    · rwa [heq]
    · rw [heq]
      by_cases h : x = a + i
      · rw [h, Memory.read_write_same]; rfl
      · rwa [Memory.read_write_other _ _ _ _ h]

/-! ## The lengths of what commands store -/

theorem length_bytesOfBits (bits : List Bool) : (bytesOfBits bits).length = bits.length / 8 := by
  induction bits using bytesOfBits.induct with
  | case1 b7 b6 b5 b4 b3 b2 b1 b0 rest ih =>
    simp only [bytesOfBits, List.length_cons, ih]
    omega
  | case2 bits hshort =>
    rw [bytesOfBits.eq_2 _ hshort]
    match bits, hshort with
    | [], _ | [_], _ | [_, _], _ | [_, _, _], _ | [_, _, _, _], _ | [_, _, _, _, _], _ | [_, _, _, _, _, _], _
    | [_, _, _, _, _, _, _], _ => simp
    | _ :: _ :: _ :: _ :: _ :: _ :: _ :: _ :: _, h => exact absurd rfl (h _ _ _ _ _ _ _ _ _)

@[simp] theorem length_padBytes (n : Nat) : (padBytes n).length = n := by simp [padBytes]

/-- The finished stream fills its codewords exactly (R112). -/
@[simp] theorem length_finishStream (bits : List Bool) (dt : Nat) : (finishStream bits dt).length = dt := by
  simp only [finishStream, zeroFill, List.length_append, length_padBytes, length_bytesOfBits, List.length_replicate,
    List.length_take]
  omega

@[simp] theorem length_packedCodewords (v : Nat) (e : Level) (mo : Mode) (data : List Byte) :
    (packedCodewords v e mo data).length = dataCodewords v e := length_finishStream _ _

theorem length_xorPrefix (r a : List Byte) : (xorPrefix r a).length = r.length := by
  induction r generalizing a with
  | nil => cases a <;> rfl
  | cons x r ih =>
    cases a with
    | nil => rfl
    | cons y a => simp [xorPrefix, ih]

/-- Each step of the division drops one byte (R116). -/
theorem length_divSteps (t : GfTables) (g : List Byte) (n : Nat) (r : List Byte) :
    (divSteps t g n r).length = r.length - n := by
  induction n generalizing r with
  | zero => cases r <;> rfl
  | succ n ih =>
    cases r with
    | nil => simp [divSteps]
    | cons x rest =>
      simp only [divSteps, ih]
      split <;> simp [length_xorPrefix]

@[simp] theorem length_remainder (t : GfTables) (k : Nat) (blk : List Byte) : (remainder t k blk).length = k := by
  simp [remainder, length_divSteps]

@[simp] theorem length_columns (n : Nat) (rows : List (List Byte)) :
    (columns n rows).length = n * rows.length := by
  simp [columns, List.length_flatMap]

/-- Interleaving keeps every data byte and adds `k` remainder bytes a block (R119). -/
theorem length_interleave (t : GfTables) (cw : List Byte) (b k : Nat) (hb : 0 < b) :
    (interleave t cw b k).length = cw.length + k * b := by
  have hmod : b - (b - cw.length % b) = cw.length % b := by
    have := Nat.mod_lt cw.length hb
    omega
  have hdiv := Nat.div_add_mod' cw.length b
  simp only [interleave, blocksOf, shortSize, pivotOf, List.length_append, length_columns, List.length_map,
    List.length_drop, List.length_range, hmod]
  omega

/-! ## The bounds of the version table -/

theorem versionOf_eq_some {ver : BitVec 6} {v : Nat} (h : versionOf ver = some v) : IsVersion v := by
  unfold versionOf at h
  split at h
  · next hv => exact Option.some.inj h ▸ hv
  · cases h

/-- The codewords of every version and level fit the buffers (R89, 00_scope.md R9). -/
theorem codewords_le (v : Nat) (hv : IsVersion v) (e : Level) :
    0 < blockCount v e ∧ dataCodewords v e + blockDegree v e * blockCount v e ≤ 4096 := by
  have htable : ∀ v ∈ List.range' 1 40, ∀ e ∈ [Level.m, .l, .h, .q],
      0 < blockCount v e ∧ dataCodewords v e + blockDegree v e * blockCount v e ≤ 4096 := by decide +kernel
  exact htable v (by rw [List.mem_range'_1]; unfold IsVersion at hv; omega) e (by cases e <;> simp)

end Sys2Proof.Machine
end

section
/-! SUPPORT. The scan visits every free cell, so that PLACE leaves no cell of the square unwritten (44_matrix.md
R129, R133). -/

namespace Sys2Proof.Machine

open Sys2Proof.Claims

theorem isSome_blitCell {y x h w : Nat} {rows : List Nat} {r c : Nat} (hr : y ≤ r ∧ r < y + h)
    (hc : x ≤ c ∧ c < x + w) :
    (blitCell y x h w rows r c).isSome = true := by
  unfold blitCell
  rw [if_pos ⟨hr.1, hr.2, hc.1, hc.2⟩]
  rfl

/-- Column 6, which the scan skips, is reserved from top to bottom: corner, timing cells, corner (R124, R125). -/
theorem isSome_baseCell_column_six (v r : Nat) (hr : r < sideOf v) : (baseCell v r 6).isSome = true := by
  have hside : 17 ≤ sideOf v := by unfold sideOf; omega
  have hrest : ((timingCell (sideOf v) r 6).or (cornerCell (sideOf v) r 6)).isSome = true := by
    by_cases htop : r < 9
    · simp [cornerCell, isSome_blitCell (y := 0) (x := 0) (h := 9) (w := 9) (r := r) (c := 6) (by omega) (by omega)]
    by_cases hbottom : sideOf v - 8 ≤ r
    · simp [cornerCell, isSome_blitCell (y := sideOf v - 8) (x := 0) (h := 8) (w := 9) (r := r) (c := 6) (by omega)
        (by omega)]
    · have htiming : timingCell (sideOf v) r 6 = some (decide (r % 2 = 0)) := by
        unfold timingCell
        rw [if_neg (by omega), if_pos (by omega)]
      simp [htiming]
  simp only [baseCell, Option.isSome_or, hrest, Bool.or_true]

/-- From an even column right of 6, or an odd one left of it, the column pairs take in every column but 6
(R129). -/
theorem exists_mem_scanPairs (fuel c : Nat) (up : Bool) (hfuel : c < 2 * fuel)
    (hc : c % 2 = 0 ∧ 6 ≤ c ∨ c % 2 = 1 ∧ c ≤ 5) (col : Nat) (hcol : col ≤ c) (h6 : col ≠ 6) :
    ∃ p ∈ scanPairs fuel c up, col = p.1 ∨ col = p.1 - 1 := by
  induction fuel generalizing c up with
  | zero => omega
  | succ fuel ih =>
    obtain ⟨d, hd⟩ : ∃ d, (if c = 6 then 5 else c) = d := ⟨_, rfl⟩
    have hd' : c = 6 ∧ d = 5 ∨ c ≠ 6 ∧ d = c := by split at hd <;> omega
    simp only [scanPairs, hd]
    by_cases hfirst : d ≤ col + 1
    · exact ⟨_, List.mem_cons_self, by dsimp only; omega⟩
    · obtain ⟨p, hp, hpc⟩ := ih (d - 2) (!up) (by omega) (by omega) (by omega)
      exact ⟨p, List.mem_cons_of_mem _ (by rwa [if_neg (by omega)]), hpc⟩

theorem mem_pairCells {n : Nat} {p : Nat × Bool} {r c : Nat} (hr : r < n) (hc : c = p.1 ∨ c = p.1 - 1) :
    (r, c) ∈ pairCells n p := by
  refine List.mem_flatMap.mpr ⟨if p.2 then n - 1 - r else r, by rw [List.mem_range]; split <;> omega, ?_⟩
  have hrow : (if p.2 then n - 1 - (if p.2 then n - 1 - r else r) else (if p.2 then n - 1 - r else r)) = r := by
    split <;> omega
  obtain rfl | rfl := hc <;> simp [hrow]

/-- The scan visits every cell outside column 6 that is not reserved (R129). -/
theorem mem_scanCells {v r c : Nat} {rsv : List (List Bool)} (hr : r < sideOf v) (hc : c < sideOf v) (h6 : c ≠ 6)
    (hfree : cellAt rsv r c = false) : (r, c) ∈ scanCells (sideOf v) rsv := by
  have hside : sideOf v % 4 = 1 ∧ 17 ≤ sideOf v := by unfold sideOf; omega
  obtain ⟨p, hp, hpc⟩ :=
    exists_mem_scanPairs (sideOf v) (sideOf v - 1) true (by omega) (by omega) c (by omega) h6
  have hcell : (r, c) ∈ (scanPairs (sideOf v) (sideOf v - 1) true).flatMap (pairCells (sideOf v)) :=
    List.mem_flatMap.mpr ⟨p, hp, mem_pairCells hr hpc⟩
  exact List.mem_filter.mpr ⟨hcell, by simp [hfree]⟩

/-- Every scanned cell has its bit (R130). -/
theorem isSome_lookup_placedBits {cells : List (Nat × Nat)} {r c : Nat} (bits : List Bool)
    (h : (r, c) ∈ cells) : ((placedBits cells bits).lookup (cellAddr mtxBase r c)).isSome = true := by
  obtain ⟨i, hi, hrc⟩ := List.getElem_of_mem h
  have hlen : i < (placedBits cells bits).length := by
    simp only [placedBits, List.length_zipWith, List.length_append, List.length_replicate]
    omega
  refine List.lookup_isSome_iff.mpr ⟨_, List.getElem_mem hlen, ?_⟩
  simp [placedBits, hrc]

/-- A placed byte is the byte of a cell. -/
theorem exists_cellByte_of_lookup_placedBits {cells : List (Nat × Nat)} {bits : List Bool} {a : Nat} {b : Byte}
    (h : (placedBits cells bits).lookup a = some b) : ∃ x, b = cellByte x := by
  obtain ⟨l₁, l₂, hsplit, -⟩ := List.lookup_eq_some_iff.mp h
  have hmem : (a, b) ∈ placedBits cells bits := hsplit ▸ by simp
  obtain ⟨i, hi, hab⟩ := List.getElem_of_mem hmem
  simp only [placedBits, List.getElem_zipWith] at hab
  exact ⟨_, (Prod.ext_iff.mp hab).2.symm⟩

end Sys2Proof.Machine
end

section
/-! SUPPORT. The part of the invariant that speaks of memory, the tables and the matrix, kept by every effect of
a command and every store of the host. -/

namespace Sys2Proof.Machine

open Sys2Proof.Claims

/-- The invariant's clauses about the version, the reserved mask and the cells of the square. -/
def State.MatrixInv (s : State) : Prop := s.VersionInv ∧ s.ReservedInv ∧ s.ValuedInv

/-- The invariant without the bus protocol. -/
def State.DataInv (s : State) : Prop := s.MemInv ∧ s.TablesInv ∧ s.MatrixInv

theorem State.inv_iff (s : State) : s.Inv ↔ s.DataInv ∧ s.ProtocolInv := by
  simp only [State.Inv, State.DataInv, State.MatrixInv, and_assoc]

/-- The data invariant speaks of memory, the tables, the version and the phase only. -/
theorem State.DataInv.congr {s t : State} (h : s.DataInv) (hmem : t.mem = s.mem) (htables : t.tables = s.tables)
    (hmver : t.mver = s.mver) (hphase : t.phase = s.phase) : t.DataInv := by
  simp only [State.DataInv, State.MatrixInv, State.MemInv, State.TablesInv, State.VersionInv, State.ReservedInv,
    State.ValuedInv, State.side, State.version, State.hasData, hmem, htables, hmver, hphase] at h ⊢
  exact h

theorem State.side_eq (s : State) : s.side = sideOf s.version := rfl

theorem State.DataInv.side_le {s : State} (h : s.DataInv) : s.side ≤ maxSide := by
  obtain ⟨-, -, ⟨hver, -⟩, -⟩ := h
  exact s.side_le hver

/-! ## Tables -/

theorem State.DataInv.withTables {s : State} (h : s.DataInv) :
    ({ s with tables := some builtTables } : State).DataInv :=
  ⟨h.1, fun _ ht => (Option.some.inj ht).symm, h.2.2⟩

/-- With the invariant the tables a command reads are the built ones (R82). -/
theorem State.TablesInv.gf_eq {s : State} (h : s.TablesInv) : s.gf = builtTables := by
  unfold State.gf
  cases ht : s.tables with
  | none => rfl
  | some t => exact h t ht

theorem State.DataInv.needTables {s : State} (h : s.DataInv) : s.needTables.DataInv := by
  unfold State.needTables
  rw [h.2.1.gf_eq]
  exact h.withTables

/-! ## Memory writes that keep the matrix -/

/-- The new memory shows RSV as before and leaves no cell of MTX unwritten that was written. -/
def Memory.KeepsMatrix (m m' : Memory) : Prop :=
  (∀ x, rsvBase ≤ x → x ≤ 0x2FFFF → m'.read x = m.read x) ∧
  ∀ x, mtxBase ≤ x → x < rsvBase → (m.read x).isSome = true → (m'.read x).isSome = true

theorem State.DataInv.withMem {s : State} (h : s.DataInv) {m : Memory} (hm : m.Legal)
    (hkeep : s.mem.KeepsMatrix m) : ({ s with mem := m } : State).DataInv := by
  obtain ⟨-, htables, hversion, hreserved, hvalued⟩ := id h
  have hside : s.side ≤ 177 := h.side_le
  refine ⟨hm, htables, hversion, fun hp r c hr hc => ?_, fun r c hr hc => ?_⟩
  · have hr' : r < s.side := hr
    have hc' : c < s.side := hc
    exact (hkeep.1 _ (by unfold cellAddr; omega) (by unfold cellAddr rsvBase; omega)).trans (hreserved hp r c hr hc)
  · have hr' : r < s.side := hr
    have hc' : c < s.side := hc
    have hcell := hkeep.2 (cellAddr mtxBase r c) (by unfold cellAddr; omega)
      (by unfold cellAddr mtxBase rsvBase; omega)
    obtain ⟨hbase, hdata⟩ := hvalued r c hr hc
    exact ⟨fun hp hb => hcell (hbase hp hb), fun hd => hcell (hdata hd)⟩

theorem State.DataInv.hostStoreBytes {s : State} (h : s.DataInv) (a n : Nat) (w : Word) :
    ({ s with mem := hostStoreBytes s.mem a n w } : State).DataInv :=
  h.withMem (Memory.Legal.hostStoreBytes h.1 a n w)
    ⟨fun x hx hx' => read_hostStoreBytes_rsv _ _ _ _ _ (regionOf_rsvwin x hx hx'),
      fun _ _ _ => isSome_read_hostStoreBytes _ _ _ _ _⟩

/-- Setting a range inside the buffers leaves the matrix windows alone. -/
theorem State.DataInv.setRange_buffer {s : State} (h : s.DataInv) {a : Nat} {vs : List (Option Byte)}
    (ha : 0x2000 ≤ a) (hlen : a + vs.length ≤ 0x6020) : ({ s with mem := s.mem.setRange a vs } : State).DataInv := by
  have hread : ∀ x, mtxBase ≤ x → (s.mem.setRange a vs).read x = s.mem.read x := fun x hx => by
    unfold mtxBase at hx
    rw [Memory.read_setRange, if_neg (by omega)]
  exact h.withMem (Memory.Legal.setRange_buffer h.1 a vs ha hlen)
    ⟨fun x hx _ => hread x (by unfold rsvBase at hx; unfold mtxBase; omega), fun x hx _ hs => by rwa [hread x hx]⟩

theorem State.DataInv.writeBytes_buffer {s : State} (h : s.DataInv) {a : Nat} {bs : List Byte}
    (ha : 0x2000 ≤ a) (hlen : a + bs.length ≤ 0x6020) : ({ s with mem := s.mem.writeBytes a bs } : State).DataInv :=
  h.setRange_buffer ha (by simpa using hlen)

/-- A rewriting of cells that leaves no written cell unwritten. -/
def KeepsValues (f : Nat → Nat → Option Byte → Option Byte) : Prop :=
  ∀ r c x, x.isSome = true → (f r c x).isSome = true

theorem Memory.keepsMatrix_mapSquare (m : Memory) {n : Nat} {f : Nat → Nat → Option Byte → Option Byte}
    (hn : n ≤ maxSide) (hf : KeepsValues f) : m.KeepsMatrix (m.mapSquare mtxBase n f) := by
  unfold maxSide at hn
  refine ⟨fun x hx _ => ?_, fun x _ _ hs => ?_⟩
  · unfold rsvBase at hx
    rw [Memory.read_mapSquare _ _ _ _ _ (by omega), if_neg (by unfold mtxBase; omega)]
  · rw [Memory.read_mapSquare _ _ _ _ _ (by omega)]
    split
    · rw [Option.isSome_or, hf _ _ _ hs, Bool.true_or]
    · exact hs

theorem State.DataInv.mapSquare {s : State} (h : s.DataInv) {f : Nat → Nat → Option Byte → Option Byte}
    (hcells : KeepsCells f) (hvalues : KeepsValues f) :
    ({ s with mem := s.mem.mapSquare mtxBase s.side f } : State).DataInv :=
  h.withMem (Memory.Legal.mapSquare h.1 (.inl rfl) h.side_le hcells)
    (s.mem.keepsMatrix_mapSquare h.side_le hvalues)

/-! ## The phases -/

/-- Once every cell holds a value the matrix may enter any phase from BASE on. -/
theorem State.DataInv.withPhase {s : State} (h : s.DataInv) (hbase : s.phase ≠ .empty)
    (hall : ∀ r c, r < s.side → c < s.side → (s.mem.read (cellAddr mtxBase r c)).isSome = true)
    {p : Phase} (hp : p ≠ .empty) : ({ s with phase := p } : State).DataInv := by
  obtain ⟨hmem, htables, ⟨hver, hempty⟩, hreserved, -⟩ := h
  refine ⟨hmem, htables, ⟨hver, fun h => absurd h hp, fun h => absurd (hempty.mpr h) hbase⟩,
    fun _ => hreserved hbase, fun r c hr hc => ⟨fun _ _ => hall r c hr hc, fun _ => hall r c hr hc⟩⟩

theorem State.hasBase_iff (s : State) : s.hasBase = true ↔ s.phase ≠ .empty := by simp [State.hasBase]

/-- The base matrix of a version meets the invariant from any memory of legal bytes (R128, R132). -/
theorem State.DataInv.buildBaseInto {s : State} (h : s.DataInv) {v : Nat} (hv : IsVersion v) :
    (s.buildBaseInto v).DataInv := by
  obtain ⟨hv1, hv40⟩ := hv
  have hn : sideOf v ≤ 177 := by unfold sideOf; omega
  have hversion : (s.buildBaseInto v).version = v := by
    simp only [State.version, State.buildBaseInto, BitVec.toNat_ofNat]
    omega
  have hside : (s.buildBaseInto v).side = sideOf v := (State.side_eq _).trans (congrArg sideOf hversion)
  have hbaseCells : KeepsCells fun r c _ => (baseCell v r c).map cellByte := fun r c x b _ hb => by
    obtain ⟨bit, -, rfl⟩ := Option.map_eq_some_iff.mp hb
    exact toNat_cellByte_le bit
  have hmaskCells : KeepsCells fun r c _ => some (cellByte (baseCell v r c).isSome) := fun r c x b _ hb =>
    Option.some.inj hb ▸ toNat_cellByte_le _
  refine ⟨Memory.Legal.mapSquare (Memory.Legal.mapSquare h.1 (.inl rfl) hn hbaseCells) (.inr rfl) hn hmaskCells,
    h.2.1, ⟨hversion.trans_le hv40, by simp [State.buildBaseInto], fun h0 => by omega⟩, fun _ r c hr hc => ?_,
    fun r c hr hc => ⟨fun _ hb => ?_, fun hd => by cases hd⟩⟩
  · rw [hside] at hr hc
    rw [hversion]
    simp only [State.buildBaseInto, Memory.read_mapSquare_cell _ _ _ _ _ _ (by omega : sideOf v ≤ 256) hr hc,
      Option.some_or]
  · rw [hside] at hr hc
    rw [hversion] at hb
    have hother : ¬ rsvBase ≤ cellAddr mtxBase r c := by unfold cellAddr mtxBase rsvBase; omega
    simp only [State.buildBaseInto]
    rw [Memory.read_mapSquare _ _ _ _ _ (by omega : sideOf v ≤ 256), if_neg fun hx => hother hx.1,
      Memory.read_mapSquare_cell _ _ _ _ _ _ (by omega : sideOf v ≤ 256) hr hc]
    simp [hb]

/-- The free cells of the invariant's mask are those the scan takes. -/
theorem State.DataInv.cellAt_reserved {s : State} (h : s.DataInv) (hbase : s.phase ≠ .empty) {r c : Nat}
    (hr : r < s.side) (hc : c < s.side) : cellAt s.reserved r c = (baseCell s.version r c).isSome := by
  obtain ⟨-, -, -, hreserved, -⟩ := h
  rw [s.cellAt_reserved r c hr hc, hreserved hbase r c hr hc]
  simp

/-- The bytes PLACE puts in the scanned cells (R133). -/
def State.placedCells (s : State) : List (Nat × Byte) :=
  placedBits (scanCells s.side s.reserved) (streamBits (s.readBytes ilbBase (totalCodewords s.mver.toNat)))

/-- PLACE on one cell: its placed byte, or what it held. -/
def placeCell (placed : List (Nat × Byte)) (r c : Nat) (old : Option Byte) : Option Byte :=
  match placed.lookup (cellAddr mtxBase r c) with
  | some b => some b
  | none => old

theorem placeCell_eq (placed : List (Nat × Byte)) (r c : Nat) (old : Option Byte) :
    placeCell placed r c old = (placed.lookup (cellAddr mtxBase r c)).or old := by
  unfold placeCell
  cases placed.lookup (cellAddr mtxBase r c) <;> rfl

theorem State.placeInto_eq (s : State) :
    s.placeInto = { s.drew (totalCodewords s.mver.toNat) with
      mem := s.mem.mapSquare mtxBase s.side (placeCell s.placedCells), phase := .placed } := rfl

theorem State.keepsCells_placeCell (s : State) : KeepsCells (placeCell s.placedCells) := fun r c x b hx hb => by
  rw [placeCell_eq] at hb
  obtain hb | ⟨-, hb⟩ := Option.or_eq_some_iff.mp hb
  · obtain ⟨bit, rfl⟩ := exists_cellByte_of_lookup_placedBits hb
    exact toNat_cellByte_le bit
  · exact hx b hb

/-- PLACE leaves every cell of the square written: the reserved ones had a value, the others are scanned (R133). -/
theorem State.DataInv.placeInto {s : State} (h : s.DataInv) (hbase : s.phase ≠ .empty) :
    s.placeInto.DataInv := by
  have hvalues : KeepsValues (placeCell s.placedCells) := fun r c x hx => by
    rw [placeCell_eq, Option.isSome_or, hx, Bool.or_true]
  have hall : ∀ r c, r < s.side → c < s.side →
      ((s.mem.mapSquare mtxBase s.side (placeCell s.placedCells)).read (cellAddr mtxBase r c)).isSome = true := by
    intro r c hr hc
    obtain ⟨-, -, ⟨hver, -⟩, -, hvalued⟩ := id h
    rw [read_mtx_mapSquare s _ hver r c hr hc]
    by_cases hres : (baseCell s.version r c).isSome = true
    · exact hvalues _ _ _ ((hvalued r c hr hc).1 hbase hres)
    · have h6 : c ≠ 6 := fun h6 => hres (h6 ▸ isSome_baseCell_column_six s.version r hr)
      have hfree : cellAt s.reserved r c = false := by
        rw [h.cellAt_reserved hbase hr hc]
        simpa using hres
      have hplaced := isSome_lookup_placedBits (streamBits (s.readBytes ilbBase (totalCodewords s.mver.toNat)))
        (mem_scanCells (v := s.version) hr hc h6 hfree)
      rw [placeCell_eq, Option.isSome_or, Bool.or_eq_true]
      exact .inl hplaced
  rw [State.placeInto_eq]
  exact ((h.mapSquare s.keepsCells_placeCell hvalues).withPhase hbase hall (p := .placed) (by simp)).congr
    rfl rfl rfl rfl

/-! ## Mask and format -/

theorem State.DataInv.maskInto {s : State} (h : s.DataInv) (m : Nat) : (s.maskInto m).DataInv := by
  refine h.mapSquare (fun r c x b hx hb => ?_) (fun r c x hx => ?_)
  · split at hb
    · obtain ⟨y, rfl, rfl⟩ := Option.map_eq_some_iff.mp hb
      have hbit : y = 0 ∨ y = 1 := by
        have := hx y rfl
        bv_omega
      obtain rfl | rfl := hbit <;> decide
    · exact hx b hb
  · split
    · rwa [Option.isSome_map]
    · exact hx

theorem State.DataInv.formatInto {s : State} (h : s.DataInv) (e : Level) (m : Nat) : (s.formatInto e m).DataInv := by
  refine h.mapSquare (fun r c x b hx hb => ?_) (fun r c x hx => ?_)
  · obtain hb | ⟨-, hb⟩ := Option.or_eq_some_iff.mp hb
    · obtain ⟨bit, -, rfl⟩ := Option.map_eq_some_iff.mp hb
      exact toNat_cellByte_le bit
    · exact hx b hb
  · rw [Option.isSome_or, hx, Bool.or_true]

/-- Committing a mask and its format information ends PLACED in FINAL, every cell with a value (R148). -/
theorem State.DataInv.commit {s : State} (h : s.DataInv) (hplaced : s.phase = .placed) (e : Level) (m : Nat) :
    ({ (s.maskInto m).formatInto e m with phase := .final } : State).DataInv := by
  have hcommitted := (h.maskInto m).formatInto e m
  obtain ⟨-, -, -, -, hvalued⟩ := id hcommitted
  have hphase : ((s.maskInto m).formatInto e m).phase = .placed := hplaced
  exact hcommitted.withPhase (by simp [hphase])
    (fun r c hr hc => (hvalued r c hr hc).2 (by simp [State.hasData, hphase])) (by simp)

theorem State.DataInv.selectMask {s : State} (h : s.DataInv) (hplaced : s.phase = .placed) (e : Level)
    (c : Choice Nat) : (s.selectMask e c).DataInv := by
  cases c with
  | fixed m => exact (h.commit hplaced e m).congr rfl rfl rfl rfl
  | auto =>
    exact (h.commit hplaced e (bestMask (trialScores s.side e s.reserved s.matrix))).congr rfl rfl rfl rfl

/-! ## Codewords and the pipeline -/

theorem State.DataInv.packInto {s : State} (h : s.DataInv) {v : Nat} (hv : IsVersion v) (e : Level) (mo : Mode)
    (data : List Byte) : (s.packInto v e mo data).DataInv := by
  obtain ⟨-, hlen⟩ := codewords_le v hv e
  refine h.writeBytes_buffer (by decide) ?_
  rw [length_packedCodewords]
  unfold cwbBase
  omega

theorem State.DataInv.augmentInto {s : State} (h : s.DataInv) {v : Nat} (hv : IsVersion v) (e : Level) :
    (s.augmentInto v e).DataInv := by
  obtain ⟨hblocks, hlen⟩ := codewords_le v hv e
  refine (h.needTables.writeBytes_buffer (a := ilbBase)
    (bs := interleave s.gf (s.readBytes cwbBase (dataCodewords v e)) (blockCount v e) (blockDegree v e))
    (by decide) ?_).congr rfl rfl rfl rfl
  rw [length_interleave _ _ _ _ hblocks, State.length_readBytes]
  unfold ilbBase
  omega

theorem State.DataInv.generateInto {s : State} (h : s.DataInv) {v : Nat} (hv : IsVersion v) (e : Level) (mo : Mode)
    (data : List Byte) (c : Choice Nat) : (s.generateInto v e mo data c).DataInv := by
  have hbase := ((h.needTables.packInto hv e mo data).augmentInto hv e).buildBaseInto hv
  exact (hbase.placeInto (by simp [State.buildBaseInto])).selectMask rfl e c

theorem autoVersion_eq_some {len v : Nat} {mo : Mode} {e : Level} (h : autoVersion len mo e = some v) :
    IsVersion v := by
  have hmem := List.mem_of_find?_eq_some h
  rw [List.mem_range'_1] at hmem
  unfold IsVersion
  omega

/-- GENERATE works in a version of the table (R151). -/
theorem resolveVersion_eq_ok {ver : BitVec 6} {len v : Nat} {mo : Mode} {e : Level}
    (h : resolveVersion ver len mo e = .ok v) : IsVersion v := by
  unfold resolveVersion at h
  split at h
  · cases h
  · split at h
    · cases h
    · next hauto => exact Except.ok.inj h ▸ autoVersion_eq_some hauto
  · next u hfixed =>
    split at h
    · cases h
    · cases h
      unfold versionChoice at hfixed
      split at hfixed
      · cases hfixed
      · obtain ⟨u', hu, hfix⟩ := Option.map_eq_some_iff.mp hfixed
        cases hfix
        exact versionOf_eq_some hu

/-! ## Every command -/

/-- The effect of every command keeps the data invariant. -/
theorem State.Effect.dataInv {s u : State} {i : Instr} (he : s.Effect i u) (h : s.DataInv) : u.DataInv := by
  cases he with
  | nop => exact h
  | tblinit => exact h.withTables
  | gfmul | gfexp | gflog | genrd => exact h.needTables.congr rfl rfl rfl rfl
  | capq | bchq | score => exact h.congr rfl rfl rfl rfl
  | validate m x y hmem =>
    obtain rfl | ⟨vs, hlen, rfl⟩ := hmem
    · exact h.congr rfl rfl rfl rfl
    · unfold ibufSize at hlen
      exact (h.setRange_buffer (a := ibufBase) (vs := vs) (by decide) (by unfold ibufBase; omega)).congr rfl rfl rfl rfl
  | pack v e mo data x y hv =>
    exact (h.packInto (versionOf_eq_some hv) e mo data).congr rfl rfl rfl rfl
  | rsrem blk hk x =>
    exact (h.needTables.writeBytes_buffer (a := eccbBase) (bs := remainder s.gf s.remDegree blk) (by decide)
      (by rw [length_remainder]; unfold eccbBase; omega)).congr rfl rfl rfl rfl
  | augment v e x y z w hv => exact (h.augmentInto (versionOf_eq_some hv) e).congr rfl rfl rfl rfl
  | buildbase v x y hv => exact (h.buildBaseInto (versionOf_eq_some hv)).congr rfl rfl rfl rfl
  | place x y hbase => exact (h.placeInto (s.hasBase_iff.mp hbase)).congr rfl rfl rfl rfl
  | applymask m => exact h.maskInto m
  | writefmt e m x => exact (h.formatInto e m).congr rfl rfl rfl rfl
  | select e c hplaced hc => exact h.selectMask hplaced e c
  | generate v e mo data c x y z hv hc =>
    have hdrew : (s.drew s.len.toNat).DataInv := h.congr rfl rfl rfl rfl
    exact (hdrew.generateInto (resolveVersion_eq_ok hv) e mo data c).congr rfl rfl rfl rfl

end Sys2Proof.Machine
end

section
/-! SUPPORT. The steps: a predicate on memory, tables, version and phase that reset meets and every host store
and every effect keeps is kept by every step. -/

namespace Sys2Proof.Machine

open Sys2Proof.Claims

/-- `P` speaks of memory, tables, version and phase only, holds at reset, and is kept by the host's stores and by
the effect of every command. -/
structure DataPreserved (P : State → Prop) : Prop where
  congr : ∀ {s t : State}, t.mem = s.mem → t.tables = s.tables → t.mver = s.mver → t.phase = s.phase → P s → P t
  reset : P State.reset
  hostStore : ∀ (s : State) (a n : Nat) (w : Word), P s → P { s with mem := hostStoreBytes s.mem a n w }
  effect : ∀ {s u : State} {i : Instr}, s.Effect i u → P s → P u

theorem DataPreserved.hostAccess {P : State → Prop} (hP : DataPreserved P) {s : State} (h : P s) (x : Access) :
    P (s.hostAccess x) := by
  cases x with
  | read off width =>
    obtain ⟨r, n, b, hread⟩ := s.hostRead_frame off.toNat width
    rw [State.hostAccess, hread]
    exact hP.congr (s := s) rfl rfl rfl rfl h
  | write off width w =>
    obtain ⟨-, -, -, -, hw⟩ | ⟨n, hw⟩ | ⟨-, hw⟩ := s.hostWrite_cases off.toNat width w
    · rw [State.hostAccess, hw]
      exact hP.congr (s := s) rfl rfl rfl rfl h
    · rw [State.hostAccess, hw]
      exact hP.congr (s := { s with mem := Machine.hostStoreBytes s.mem off.toNat n w }) rfl rfl rfl rfl
        (hP.hostStore s off.toNat n w h)
    · rw [State.hostAccess, hw]
      exact hP.congr (s := s) rfl rfl rfl rfl h

theorem DataPreserved.engineTurn {P : State → Prop} (hP : DataPreserved P) {s t : State} (h : P s)
    (ht : s.engineTurn = .next t) : P t := by
  obtain ⟨-, heq⟩ | ⟨i, -, heq⟩ | heq := s.engineTurn_cases
  · cases heq.symm.trans ht
    exact h
  · obtain ⟨n, e, rfl⟩ | ⟨u, hu, rfl⟩ := exec_cases (heq.symm.trans ht)
    · exact hP.congr (s := s) rfl rfl rfl rfl h
    · exact hP.congr (s := u) rfl rfl rfl rfl (hP.effect hu h)
  · cases heq.symm.trans ht
    exact hP.congr (s := s) rfl rfl rfl rfl h

/-- Every step keeps it: the turns are the engine's, the host's accesses and the two edges of reset. -/
theorem DataPreserved.step {P : State → Prop} (hP : DataPreserved P) {s t : State} (h : P s)
    (ht : step s = .next t) : P t := by
  obtain ⟨-, hs⟩ | ⟨turn, rest, -, hs⟩ := step_cases s
  · exact hP.engineTurn h (hs ▸ ht)
  have hrest : P { s with turns := rest } := hP.congr (s := s) rfl rfl rfl rfl h
  rw [hs] at ht
  cases turn with
  | engine => exact hP.engineTurn hrest ht
  | host x =>
    cases ht
    exact hP.hostAccess hrest x
  | resetAssert =>
    cases ht
    exact hP.congr (s := s) rfl rfl rfl rfl h
  | resetRelease =>
    cases ht
    unfold State.releaseReset
    split
    · exact hP.congr (s := State.reset) rfl rfl rfl rfl hP.reset
    · exact hrest

/-! ## The protocol -/

theorem State.protocolInv_of_idle {s : State} (h : s.busy = false) : s.ProtocolInv :=
  ⟨fun hb => by simp [h] at hb, fun _ => h⟩

theorem State.WroteRegisters.protocolInv {s t : State} (hw : s.WroteRegisters t) (h : s.ProtocolInv) :
    t.ProtocolInv := by
  obtain ⟨hdone, hframe⟩ := hw
  have hbusy : t.busy = s.busy := by rw [hframe]; rfl
  have herr : t.err = s.err := by rw [hframe]
  have hreset : t.inReset = s.inReset := by rw [hframe]
  obtain ⟨hrun, hheld⟩ := h
  refine ⟨fun hb => ?_, fun hr => by rw [hbusy]; exact hheld (hreset ▸ hr)⟩
  obtain ⟨hd, he⟩ := hrun (hbusy ▸ hb)
  refine ⟨?_, herr.trans he⟩
  by_contra hne
  simp [hdone (by simpa using hne)] at hd

theorem State.ProtocolInv.hostAccess {s : State} (h : s.ProtocolInv) (x : Access) : (s.hostAccess x).ProtocolInv := by
  cases x with
  | read off width =>
    obtain ⟨r, n, b, hread⟩ := s.hostRead_frame off.toNat width
    rw [State.hostAccess, hread]
    exact h
  | write off width w =>
    obtain ⟨-, -, -, hreset, hw⟩ | ⟨n, hw⟩ | hw := s.hostWrite_cases off.toNat width w
    · rw [State.hostAccess, hw]
      exact ⟨fun _ => ⟨rfl, rfl⟩, fun hr => by simp [hreset] at hr⟩
    · rw [State.hostAccess, hw]
      exact h
    · exact hw.protocolInv h

/-- A command leaves the machine idle (R160). -/
theorem exec_busy {i : Instr} {s t : State} (h : exec i s = .next t) : t.busy = false := by
  obtain ⟨n, e, rfl⟩ | ⟨u, -, rfl⟩ := exec_cases h <;> rfl

/-- After the engine's turn nothing has changed or no command is in flight (R20, R160). -/
theorem State.engineTurn_next {s t : State} (ht : s.engineTurn = .next t) : t = s ∨ t.busy = false := by
  obtain ⟨-, heq⟩ | ⟨i, -, heq⟩ | heq := s.engineTurn_cases
  · cases heq.symm.trans ht
    exact .inl rfl
  · exact .inr (exec_busy (heq.symm.trans ht))
  · cases heq.symm.trans ht
    exact .inr rfl

theorem State.ProtocolInv.engineTurn {s t : State} (h : s.ProtocolInv) (ht : s.engineTurn = .next t) :
    t.ProtocolInv := by
  obtain rfl | hidle := State.engineTurn_next ht
  · exact h
  · exact State.protocolInv_of_idle hidle

theorem State.ProtocolInv.step {s t : State} (h : s.ProtocolInv) (ht : step s = .next t) : t.ProtocolInv := by
  obtain ⟨-, hs⟩ | ⟨turn, rest, -, hs⟩ := step_cases s
  · exact h.engineTurn (hs ▸ ht)
  have hrest : ({ s with turns := rest } : State).ProtocolInv := h
  rw [hs] at ht
  cases turn with
  | engine => exact hrest.engineTurn ht
  | host x =>
    cases ht
    exact hrest.hostAccess x
  | resetAssert =>
    cases ht
    exact State.protocolInv_of_idle rfl
  | resetRelease =>
    cases ht
    unfold State.releaseReset
    split
    · exact State.protocolInv_of_idle rfl
    · exact hrest

/-! ## The invariant and the canonical form of memory -/

theorem reset_dataInv : State.reset.DataInv := by
  refine ⟨⟨reset_mem_wf, fun e he => ?_⟩, fun t ht => ?_, ⟨by decide, fun _ => rfl, fun _ => rfl⟩,
    fun h => absurd rfl h, fun _ _ _ _ => ⟨fun h => absurd rfl h, fun h => ?_⟩⟩
  · cases he
  · cases ht
  · cases h

/-- Settles O24: nothing is stored, built or in flight at reset. -/
theorem invariantHoldsAtReset : Obligations.InvariantHoldsAtReset :=
  (State.inv_iff _).mpr ⟨reset_dataInv, State.protocolInv_of_idle rfl⟩

theorem dataPreserved_dataInv : DataPreserved State.DataInv where
  congr hmem htables hmver hphase h := h.congr hmem htables hmver hphase
  reset := reset_dataInv
  hostStore _ a n w h := h.hostStoreBytes a n w
  effect he h := he.dataInv h

/-- Settles O26: the clauses about memory, tables and matrix are kept by each host store and by the effect of each
command, the protocol by the turns. -/
theorem everyStepKeepsTheInvariant : Obligations.EveryStepKeepsTheInvariant := by
  intro s t hinv hstep
  obtain ⟨hdata, hprotocol⟩ := s.inv_iff.mp hinv
  exact t.inv_iff.mpr ⟨dataPreserved_dataInv.step hdata hstep, hprotocol.step hstep⟩

/-! ### Canonical memory from any state -/

theorem State.selectMask_mem_wf {s : State} (h : s.mem.wf) (e : Level) (c : Choice Nat) :
    (s.selectMask e c).mem.wf := by
  cases c <;> exact Memory.mapSquare_wf _ (Memory.mapSquare_wf _ h _ _ _) _ _ _

theorem State.generateInto_mem_wf {s : State} (h : s.mem.wf) (v : Nat) (e : Level) (mo : Mode) (data : List Byte)
    (c : Choice Nat) : (s.generateInto v e mo data c).mem.wf := by
  have hcodewords : ((s.needTables.packInto v e mo data).augmentInto v e).mem.wf :=
    Memory.writeBytes_wf _ (Memory.writeBytes_wf _ h _ _) _ _
  have hbase : (((s.needTables.packInto v e mo data).augmentInto v e).buildBaseInto v).mem.wf :=
    Memory.mapSquare_wf _ (Memory.mapSquare_wf _ hcodewords _ _ _) _ _ _
  exact State.selectMask_mem_wf (Memory.mapSquare_wf _ hbase _ _ _) e c

theorem State.Effect.mem_wf {s u : State} {i : Instr} (he : s.Effect i u) (h : s.mem.wf) : u.mem.wf := by
  cases he with
  | nop | tblinit | gfmul | gfexp | gflog | genrd | capq | bchq | score => exact h
  | validate m x y hmem =>
    obtain rfl | ⟨vs, -, rfl⟩ := hmem
    · exact h
    · exact Memory.setRange_wf _ h _ _
  | pack | rsrem | augment => exact Memory.writeBytes_wf _ h _ _
  | buildbase => exact Memory.mapSquare_wf _ (Memory.mapSquare_wf _ h _ _ _) _ _ _
  | place | applymask | writefmt => exact Memory.mapSquare_wf _ h _ _ _
  | select e c => exact State.selectMask_mem_wf h e c
  | generate v e mo data c => exact State.generateInto_mem_wf (s := s.drew s.len.toNat) h v e mo data c

theorem dataPreserved_mem_wf : DataPreserved fun s => s.mem.wf where
  congr hmem _ _ _ h := by rw [hmem]; exact h
  reset := reset_mem_wf
  hostStore s a n w h := hostStoreBytes_wf s.mem h a n w
  effect he h := he.mem_wf h

/-- Settles O25: every store of the host and every effect of a command goes through `Memory.setRange`. -/
theorem everyStepKeepsMemoryCanonical : Obligations.EveryStepKeepsMemoryCanonical :=
  fun _ _ hmem hstep => dataPreserved_mem_wf.step hmem hstep

/-! ## Only a CMD write starts a command -/

/-- The engine's turn starts no command (R20). -/
theorem State.engineTurn_idle {s t : State} (h : s.busy = false) (ht : s.engineTurn = .next t) : t.busy = false := by
  obtain rfl | hidle := State.engineTurn_next ht
  · exact h
  · exact hidle

/-- A host access that leaves an idle machine with a command in flight is a 32-bit write of CMD (R60). -/
theorem State.hostAccess_starts {s : State} (h : s.busy = false) (x : Access) (hx : (s.hostAccess x).busy = true) :
    ∃ w, x = .write 0x004 32 w := by
  cases x with
  | read off width =>
    obtain ⟨r, n, b, hread⟩ := s.hostRead_frame off.toNat width
    rw [State.hostAccess, hread] at hx
    exact absurd (hx.symm.trans h) (by simp)
  | write off width w =>
    rw [State.hostAccess] at hx
    obtain ⟨hoff, rfl, -⟩ | ⟨n, hw⟩ | ⟨-, hw⟩ := s.hostWrite_cases off.toNat width w
    · exact ⟨w, by rw [show off = 0x004 from BitVec.eq_of_toNat_eq hoff]⟩
    · rw [hw] at hx
      exact absurd (hx.symm.trans h) (by simp)
    · rw [hw] at hx
      exact absurd (hx.symm.trans h) (by simp)

/-- Settles O8: of the turns only a host access can raise BUSY, and of the accesses only a CMD write. -/
theorem onlyACmdWriteStartsACommand : Obligations.OnlyACmdWriteStartsACommand := by
  intro s t hidle hstep hbusy
  obtain ⟨-, hs⟩ | ⟨turn, rest, hturns, hs⟩ := step_cases s
  · simp [State.engineTurn_idle hidle (hs ▸ hstep)] at hbusy
  have hrest : ({ s with turns := rest } : State).busy = false := hidle
  rw [hs] at hstep
  cases turn with
  | engine => simp [State.engineTurn_idle hrest hstep] at hbusy
  | host x =>
    cases hstep
    obtain ⟨w, rfl⟩ := State.hostAccess_starts hrest x hbusy
    exact ⟨w, rest, hturns⟩
  | resetAssert =>
    cases hstep
    cases hbusy
  | resetRelease =>
    cases hstep
    unfold State.releaseReset at hbusy
    split at hbusy
    · cases hbusy
    · exact absurd (hbusy.symm.trans hrest) (by simp)

end Sys2Proof.Machine
end

section
/-! SUPPORT. The registers a command leaves alone, and the registers as the host sees them. -/

namespace Sys2Proof.Machine

open Sys2Proof.Claims

/-! ## Frames of the commands -/

theorem maskChoice_auto {mask : BitVec 4} (h : maskChoice mask = some .auto) : mask = 15 := by
  unfold maskChoice at h
  split at h
  · next h15 => exact BitVec.eq_of_toNat_eq h15
  · obtain ⟨m, -, hm⟩ := Option.map_eq_some_iff.mp h
    cases hm

/-- What a committed mask changes beside memory: the phase, RES0, RES1, the draws, and SB in an automatic
selection (R143, R144). -/
theorem State.selectMask_frame (s : State) (e : Level) (c : Choice Nat) :
    ∃ m p b x y n, s.selectMask e c = { s with mem := m, phase := p, sb := b, res0 := x, res1 := y, draws := n } ∧
      (b ≠ s.sb → c = .auto) := by
  cases c with
  | auto =>
    simp only [State.selectMask, State.autoMask, State.formatInto, State.maskInto, State.drew]
    exact ⟨_, _, _, _, _, _, rfl, fun _ => trivial⟩
  | fixed m =>
    simp only [State.selectMask, State.forceMask, State.formatInto, State.maskInto]
    exact ⟨_, _, s.sb, _, _, s.draws, rfl, fun h => absurd rfl h⟩

/-- What the pipeline changes before its mask selection: tables, memory, version, phase and draws (R151). -/
theorem State.placeInto_pipeline_frame (s : State) (v : Nat) (e : Level) (mo : Mode) (data : List Byte) :
    ∃ g m mv p n, (((s.needTables.packInto v e mo data).augmentInto v e).buildBaseInto v).placeInto =
      { s with tables := g, mem := m, mver := mv, phase := p, draws := n } := by
  simp only [State.placeInto, State.buildBaseInto, State.augmentInto, State.packInto, State.needTables, State.drew]
  exact ⟨_, _, _, _, _, rfl⟩

/-- What the pipeline changes: beside that, what its mask selection changes (R151). -/
theorem State.generateInto_frame (s : State) (v : Nat) (e : Level) (mo : Mode) (data : List Byte) (c : Choice Nat) :
    ∃ g m mv p b x y n, s.generateInto v e mo data c =
        { s with tables := g, mem := m, mver := mv, phase := p, sb := b, res0 := x, res1 := y, draws := n } ∧
      (b ≠ s.sb → c = .auto) := by
  obtain ⟨g, m, mv, p, n, hplaced⟩ := s.placeInto_pipeline_frame v e mo data
  obtain ⟨m', p', b, x, y, n', hselect, hauto⟩ :=
    State.selectMask_frame { s with tables := g, mem := m, mver := mv, phase := p, draws := n } e c
  rw [State.generateInto, hplaced, hselect]
  exact ⟨_, _, _, _, _, _, _, _, rfl, hauto⟩

/-- The result registers outside a command's list are as before (R30). -/
theorem State.Effect.results {s u : State} {i : Instr} (he : s.Effect i u) :
    (0 ∉ resWritten i → u.res0 = s.res0) ∧ (1 ∉ resWritten i → u.res1 = s.res1) ∧
    (2 ∉ resWritten i → u.res2 = s.res2) ∧ (3 ∉ resWritten i → u.res3 = s.res3) ∧
    (4 ∉ resWritten i → u.res4 = s.res4) := by
  cases he with
  | nop | tblinit | applymask => exact ⟨fun _ => rfl, fun _ => rfl, fun _ => rfl, fun _ => rfl, fun _ => rfl⟩
  | gfmul | gfexp | gflog | rsrem | writefmt =>
    exact ⟨fun h => by simp [resWritten] at h, fun _ => rfl, fun _ => rfl, fun _ => rfl, fun _ => rfl⟩
  | genrd | bchq | validate | pack | buildbase | place =>
    exact ⟨fun h => by simp [resWritten] at h, fun h => by simp [resWritten] at h, fun _ => rfl, fun _ => rfl,
      fun _ => rfl⟩
  | select e c =>
    obtain ⟨m, p, b, x, y, n, hselect, -⟩ := s.selectMask_frame e c
    simp [resWritten, hselect]
  | augment => simp [resWritten, State.augmentInto]
  | capq | score | generate => simp [resWritten]

/-- The scoreboard changes only in an automatic selection (R32, R148, R151). -/
theorem State.Effect.sb {s u : State} {i : Instr} (he : s.Effect i u) (hsb : u.sb ≠ s.sb) :
    (∃ ecc, i = .select ecc 15) ∨ ∃ ecc ver mode, i = .generate ecc ver mode 15 := by
  cases he with
  | select e c hplaced hc =>
    obtain ⟨m, p, b, x, y, n, hselect, hauto⟩ := s.selectMask_frame e c
    obtain rfl := hauto (by simpa [hselect] using hsb)
    exact .inl ⟨_, by rw [maskChoice_auto hc]⟩
  | generate v e mo data c x y z hv hc =>
    obtain ⟨g, m, mv, p, b, x, y, n, hgenerate, hauto⟩ := (s.drew s.len.toNat).generateInto_frame v e mo data c
    obtain rfl := hauto (by simpa [hgenerate] using hsb)
    exact .inr ⟨_, _, _, by rw [maskChoice_auto hc]⟩
  | _ => exact absurd rfl hsb

/-- The version changes only where a base matrix is built (R39, R132, R151). -/
theorem State.Effect.mver {s u : State} {i : Instr} (he : s.Effect i u) (hmver : u.mver ≠ s.mver) :
    (∃ ver, i = .buildbase ver) ∨ ∃ ecc ver mode mask, i = .generate ecc ver mode mask := by
  cases he with
  | buildbase => exact .inl ⟨_, rfl⟩
  | generate => exact .inr ⟨_, _, _, _, rfl⟩
  | select e c =>
    obtain ⟨m, p, b, x, y, n, hselect, -⟩ := s.selectMask_frame e c
    simp [hselect] at hmver
  | _ => exact absurd rfl hmver

/-- Settles O29: an error changes no register, and the effect of each command only those of its list. -/
theorem registersACommandLeavesAlone : Obligations.RegistersACommandLeavesAlone := by
  intro i s t h
  obtain ⟨n, e, rfl⟩ | ⟨u, hu, rfl⟩ := exec_cases h
  · exact ⟨fun _ => rfl, fun _ => rfl, fun _ => rfl, fun _ => rfl, fun _ => rfl, fun h => absurd rfl h,
      fun h => absurd rfl h⟩
  · obtain ⟨h0, h1, h2, h3, h4⟩ := hu.results
    exact ⟨h0, h1, h2, h3, h4, hu.sb, hu.mver⟩

/-! ## The CSR map -/

theorem accessLegal_csr {a : Nat} (ha : a ≤ 0xFF) (h4 : a % 4 = 0) : accessLegal a 32 = true := by
  simp [accessLegal, regionOf, ha, h4]

theorem isGuarded_csr {a : Nat} (ha : a ≤ 0xFF) : isGuarded a = false := by
  simp [isGuarded, regionOf, ha]

/-- An idle machine answers a CSR read with the register (R23). -/
theorem State.hostRead_csr {s : State} (h : Idle s) {a : Nat} (ha : a ≤ 0xFF) (h4 : a % 4 = 0) :
    s.hostRead a 32 = { s with reply := .data (s.csrValue a), draws := s.draws + 4 } := by
  obtain ⟨hbusy, hreset⟩ := h
  simp [State.hostRead, hreset, accessLegal_csr ha h4, isGuarded_csr ha, State.readCsr, hbusy, State.drew]

/-- Out of reset an aligned 32-bit write of a CSR reaches it (R49). -/
theorem State.hostWrite_csr {s : State} (h : s.inReset = false) {a : Nat} (ha : a ≤ 0xFF) (h4 : a % 4 = 0) (w : Word) :
    s.hostWrite a 32 w = { s.writeCsr a w with reply := .done } := by
  simp [State.hostWrite, h, accessLegal_csr ha h4, isGuarded_csr ha]

/-- Reserved offsets read 0 (R23). -/
theorem State.csrValue_reserved (s : State) {a : Nat} (ha : (0x034 ≤ a ∧ a ≤ 0x03C) ∨ 0x060 ≤ a) :
    s.csrValue a = 0 := by
  unfold State.csrValue
  split
  case h_22 => rfl
  all_goals omega

/-- Read-only and reserved offsets ignore writes (R23). -/
theorem State.writeCsr_readOnly {s : State} (h : s.busy = false) {a : Nat} (ha : a = 0x000 ∨ 0x01C ≤ a) (w : Word) :
    s.writeCsr a w = s := by
  unfold State.writeCsr
  rw [h, Bool.false_and, if_neg (by simp)]
  split
  case h_7 => rfl
  all_goals omega

/-- Settles O16, from the one rule for reads and the one for writes of a CSR. -/
theorem idleCsrAccessesFollowTheMap : Obligations.IdleCsrAccessesFollowTheMap := by
  intro s w h
  obtain ⟨hbusy, hreset⟩ := id h
  have hwrite := fun a (ha : a ≤ 0xFF) (h4 : a % 4 = 0) => State.hostWrite_csr hreset ha h4 w
  refine ⟨?_, fun a ha h4 => ?_, ?_, ?_, ?_, ?_, fun a ha h4 => ?_⟩
  · simp only [List.forall_mem_cons, List.not_mem_nil, false_imp_iff, implies_true, and_true]
    and_intros
    all_goals exact State.hostRead_csr h (by decide) (by decide)
  · rw [State.hostRead_csr h (by omega) h4, s.csrValue_reserved (by omega)]
  · rw [hwrite _ (by decide) (by decide)]
    simp [State.writeCsr, hbusy, State.writeCtrl]
  · rw [hwrite _ (by decide) (by decide)]
    have hlen : w.setWidth 14 = BitVec.ofNat 14 (w.toNat % 2 ^ 14) := BitVec.eq_of_toNat_eq (by simp)
    simp [State.writeCsr, hbusy, hlen]
  · rw [hwrite _ (by decide) (by decide)]
    simp [State.writeCsr, hbusy]
  · rw [hwrite _ (by decide) (by decide)]
    simp [State.writeCsr, hbusy]
  · rw [hwrite _ (by omega) h4, State.writeCsr_readOnly hbusy (by omega)]

/-! ## STATUS, CTRL and MINFO -/

/-- A word of two fields is the sum of the upper one, shifted, and the lower one. -/
theorem toNat_append_eq_add {m n : Nat} (x : BitVec m) (y : BitVec n) :
    (x ++ y).toNat = x.toNat * 2 ^ n + y.toNat := by
  rw [BitVec.toNat_append, ← Nat.shiftLeft_add_eq_or_of_lt y.isLt, Nat.shiftLeft_eq]

theorem State.toNat_statusWord (s : State) :
    s.statusWord.toNat =
      s.busy.toNat + 2 * s.done.toNat + 4 * (decide (s.err ≠ .ok)).toNat + 8 * s.tables.isSome.toNat +
        16 * s.err.code.toNat + 256 * s.ovr.toNat + 512 * s.accerr.toNat := by
  have herr : s.errFlag = decide (s.err ≠ .ok) := by
    unfold State.errFlag
    cases s.err <;> rfl
  simp only [State.statusWord, toNat_append_eq_add, BitVec.toNat_ofBool, herr, State.tblv,
    BitVec.reduceToNat]
  omega

theorem State.toNat_minfoWord (s : State) (h : s.version ≤ 40) :
    s.minfoWord.toNat =
      s.version + 2 ^ 8 * s.phase.code.toNat + 2 ^ 16 * (if s.version = 0 then 0 else 4 * s.version + 17) := by
  have hsize : s.msize.toNat = if s.version = 0 then 0 else 4 * s.version + 17 := by
    have hzero : s.mver = 0 ↔ s.version = 0 :=
      ⟨fun h0 => by rw [State.version, h0]; rfl, fun h0 => BitVec.eq_of_toNat_eq h0⟩
    unfold State.msize
    simp only [hzero]
    split
    · rfl
    · rw [BitVec.toNat_ofNat, State.side]
      unfold State.version at h ⊢
      omega
  have hver : s.mver.toNat = s.version := rfl
  simp only [State.minfoWord, toNat_append_eq_add, hsize, hver, BitVec.reduceToNat]
  omega

/-- Settles O17: each word as the sum of its fields, and the write of STATUS. -/
theorem statusAndMinfoFields : Obligations.StatusAndMinfoFields := by
  intro s
  refine ⟨s.toNat_statusWord, ?_, by decide, by decide, fun w hreset => ?_, s.toNat_minfoWord⟩
  · simp only [State.ctrlWord, toNat_append_eq_add, BitVec.toNat_ofBool, BitVec.reduceToNat]
    omega
  · rw [State.hostWrite_csr hreset (by decide) (by decide)]
    simp [State.writeCsr, isOperandReg, State.writeStatus]

/-! ## Reset -/

/-- Settles O21: the registers by evaluation, the unwritten bytes and cells by what an unlisted offset reads as. -/
theorem resetLeavesTheTableOfR42 : Obligations.ResetLeavesTheTableOfR42 := by
  refine ⟨rfl, rfl, by decide, by decide, rfl, rfl, rfl, rfl, rfl, rfl, rfl, rfl, rfl, rfl, rfl, by decide, rfl, rfl,
    rfl, rfl, rfl, rfl, fun a _ _ => rfl, fun a ha ha' => unlisted_buffer a ha ha', fun r c hr hc => ⟨?_, ?_⟩⟩
  · exact unlisted_mtx r c (Nat.lt_succ_of_le hr) (Nat.lt_succ_of_le hc)
  · exact unlisted_rsv r c (Nat.lt_succ_of_le hr) (Nat.lt_succ_of_le hc)

end Sys2Proof.Machine
end

section
/-! SUPPORT. The host's accesses of the window, said once per kind of offset: which are legal, and what a read
answers and a write does out of reset (20_memory.md R44 to R52). -/

namespace Sys2Proof.Machine

open Sys2Proof.Claims

/-! ## Legality -/

/-- The map of R44: a CSR, an unmapped offset, or a buffer or window. -/
theorem regionOf_cases (a : Nat) :
    (a ≤ 0xFF ∧ regionOf a = .csr) ∨ (Unmapped a ∧ regionOf a = .unmapped) ∨
      (BufferOrWindow a ∧ regionOf a ≠ .csr ∧ regionOf a ≠ .unmapped) := by
  unfold Unmapped BufferOrWindow
  fun_cases regionOf a
  all_goals simp only [ne_eq, reduceCtorEq, not_false_eq_true, not_true_eq_false, and_true, and_false]
  all_goals omega

theorem regionOf_bufferOrWindow {a : Nat} (h : BufferOrWindow a) :
    regionOf a ≠ .csr ∧ regionOf a ≠ .unmapped := by
  obtain ⟨ha, -⟩ | ⟨ha, -⟩ | ⟨-, hregion⟩ := regionOf_cases a
  · unfold BufferOrWindow at h; omega
  · unfold BufferOrWindow at h; unfold Unmapped at ha; omega
  · exact hregion

theorem isGuarded_bufferOrWindow {a : Nat} (h : BufferOrWindow a) : isGuarded a = true := by
  obtain ⟨hcsr, hunmapped⟩ := regionOf_bufferOrWindow h
  unfold isGuarded
  split
  · contradiction
  · contradiction
  · rfl

theorem accessLegal_bufferOrWindow {a : Nat} (h : BufferOrWindow a) (width : Nat) :
    accessLegal a width = true ↔ Aligned a width := by
  obtain ⟨hcsr, hunmapped⟩ := regionOf_bufferOrWindow h
  unfold accessLegal
  split
  · contradiction
  · contradiction
  · simp [Aligned, or_assoc]

/-- The accesses that get no bus error are those R49 lets through. -/
theorem accessLegal_iff (a width : Nat) : accessLegal a width = true ↔ ¬ GetsBusError a width := by
  obtain ⟨ha, hr⟩ | ⟨ha, hr⟩ | ⟨ha, -⟩ := regionOf_cases a
  · have hother : ¬ Unmapped a ∧ ¬ BufferOrWindow a := by unfold Unmapped BufferOrWindow; omega
    simp [GetsBusError, accessLegal, hr, ha, hother]
  · simp [GetsBusError, accessLegal, hr, ha]
  · have hother : ¬ Unmapped a ∧ ¬ a ≤ 0xFF := by
      unfold Unmapped
      unfold BufferOrWindow at ha
      omega
    simp [GetsBusError, accessLegal_bufferOrWindow, ha, hother]

/-- Out of reset a legal read answers data. -/
theorem State.hostRead_legal {s : State} (hreset : s.inReset = false) {a width : Nat}
    (h : accessLegal a width = true) : ∃ v, (s.hostRead a width).reply = .data v := by
  unfold State.hostRead
  simp only [hreset, h, Bool.not_true, Bool.false_eq_true, if_false]
  split
  · exact ⟨_, rfl⟩
  split
  · exact ⟨_, rfl⟩
  · exact ⟨_, rfl⟩

/-- Out of reset a legal write is answered with done. -/
theorem State.hostWrite_legal {s : State} (hreset : s.inReset = false) {a width : Nat}
    (h : accessLegal a width = true) (w : Word) : (s.hostWrite a width w).reply = .done := by
  unfold State.hostWrite
  simp only [hreset, h, Bool.not_true, Bool.false_eq_true, if_false]
  split
  · rfl
  split
  · rfl
  · rfl

/-- Settles O15: a refused access answers the bus error before anything else, and a legal one never does. -/
theorem busErrorsAreExactAndHarmless : Obligations.BusErrorsAreExactAndHarmless := by
  intro s off width w hreset
  refine ⟨fun herr => ?_, fun hok => ?_⟩
  · have hrefused : accessLegal off.toNat width = false := by
      rw [← Bool.not_eq_true, accessLegal_iff, not_not]
      exact herr
    simp [State.hostAccess, State.hostRead, State.hostWrite, hreset, hrefused]
  · have hlegal := (accessLegal_iff off.toNat width).mpr hok
    obtain ⟨v, hread⟩ := s.hostRead_legal hreset hlegal
    simp [State.hostAccess, hread, s.hostWrite_legal hreset hlegal]

/-! ## The accesses while BUSY -/

/-- Out of reset an aligned 32-bit read of a CSR answers it (R49). -/
theorem State.hostRead_readCsr {s : State} (h : s.inReset = false) {a : Nat} (ha : a ≤ 0xFF) (h4 : a % 4 = 0) :
    s.hostRead a 32 = { s with reply := .data (s.readCsr a), draws := s.draws + 4 } := by
  simp [State.hostRead, h, accessLegal_csr ha h4, isGuarded_csr ha, State.drew]

/-- A CSR that is no result register reads as when idle (R52, log 22). -/
theorem State.readCsr_eq_csrValue (s : State) {a : Nat} (h : isResultReg a = false) :
    s.readCsr a = s.csrValue a := by
  simp [State.readCsr, h]

/-- While BUSY a buffer or window answers a free value and is not written, and ACCERR rises (R52). -/
theorem State.hostAccess_guarded {s : State} (h : Running s) {a width : Nat} (ha : BufferOrWindow a)
    (hw : Aligned a width) (w : Word) :
    s.hostWrite a width w = { s with reply := .done, accerr := true } ∧
      s.hostRead a width = { s with
        reply := .data (freeWord s.draws width), accerr := true, draws := s.draws + 4 } := by
  obtain ⟨hbusy, hreset⟩ := h
  have hlegal := (accessLegal_bufferOrWindow ha width).mpr hw
  simp [State.hostWrite, State.hostRead, hbusy, hreset, hlegal, isGuarded_bufferOrWindow ha, State.drew]

/-- While BUSY a write of LEN, ARGA or ARGB only raises ACCERR (R52). -/
theorem State.writeCsr_guarded {s : State} (h : s.busy = true) {a : Nat} (ha : isOperandReg a = true) (w : Word) :
    s.writeCsr a w = { s with accerr := true } := by
  unfold State.writeCsr
  rw [h, ha, Bool.and_self, if_pos rfl]

/-- Offsets that name no register the host writes ignore a write, BUSY or not (R23). -/
theorem State.writeCsr_ignored (s : State) {a : Nat} (ha : a = 0x000 ∨ 0x01C ≤ a) (w : Word) :
    s.writeCsr a w = s := by
  have hreg : isOperandReg a = false := by
    unfold isOperandReg
    simp only [Bool.or_eq_false_iff, beq_eq_false_iff_ne]
    omega
  unfold State.writeCsr
  rw [hreg, Bool.and_false, if_neg (by simp)]
  split
  case h_7 => rfl
  all_goals omega

/-- Settles O10, from the rule for buffers and windows while BUSY and the rules for reads and writes of a CSR. -/
theorem accessesWhileBusyAreGuarded : Obligations.AccessesWhileBusyAreGuarded := by
  intro s a width w h
  obtain ⟨hbusy, hreset⟩ := id h
  have hwrite := fun a (ha : a ≤ 0xFF) (h4 : a % 4 = 0) => State.hostWrite_csr hreset ha h4 w
  have hread : ∀ a, a ≤ 0xFF → a % 4 = 0 → isResultReg a = false →
      s.hostRead a 32 = { s with reply := .data (s.csrValue a), draws := s.draws + 4 } := fun a ha h4 hres => by
    rw [State.hostRead_readCsr hreset ha h4, s.readCsr_eq_csrValue hres]
  refine ⟨fun ha hw => ?_, fun ha => ?_, fun ha h4 => ⟨_, State.hostRead_readCsr hreset (by omega) h4⟩,
    hread _ (by decide) (by decide) (by decide), hread _ (by decide) (by decide) (by decide),
    hread _ (by decide) (by decide) (by decide), hread _ (by decide) (by decide) (by decide),
    ?_, ?_, ?_, hread _ (by decide) (by decide) (by decide),
    hread _ (by decide) (by decide) (by decide), hread _ (by decide) (by decide) (by decide),
    fun ha h4 => ?_, fun ha h4 => ?_⟩
  · obtain ⟨hwritten, hanswer⟩ := State.hostAccess_guarded h ha hw w
    exact ⟨hwritten, _, hanswer⟩
  · have hreg : isOperandReg a = true := by simpa [isOperandReg, or_assoc] using ha
    rw [hwrite a (by omega) (by omega), State.writeCsr_guarded hbusy hreg]
  · rw [hwrite _ (by decide) (by decide)]
    simp [State.writeCsr, isOperandReg, State.writeStatus]
  · rw [hwrite _ (by decide) (by decide)]
    simp [State.writeCsr, isOperandReg, State.writeCtrl]
  · rw [hwrite _ (by decide) (by decide)]
    simp [State.writeCsr, isOperandReg, hbusy]
  · have hres : isResultReg a = false := by
      simp only [isResultReg, Bool.or_eq_false_iff, decide_eq_false_iff_not]
      omega
    rw [hread a (by omega) h4 hres, s.csrValue_reserved (by omega)]
  · rw [hwrite a (by omega) h4, s.writeCsr_ignored (by omega)]

end Sys2Proof.Machine
end

section
/-! SUPPORT. A command reads nothing a host write may change while it is in flight (20_memory.md R52,
70_reset_and_hazards.md R173). -/

namespace Sys2Proof.Machine

open Sys2Proof.Claims

/-- `s` with DONE and the fields a host write may change while BUSY as they are in `h`. -/
def State.withHostFields (s h : State) : State :=
  { s with done := h.done, ovr := h.ovr, accerr := h.accerr, ie := h.ie, fold := h.fold, reply := h.reply }

/-- The end of a command with those fields but DONE, which it writes, as they are in `h`. -/
def endWithHostFields (h : State) : Host.Outcome State Fault Refusal → Host.Outcome State Fault Refusal
  | .next t => .next { t with ovr := h.ovr, accerr := h.accerr, ie := h.ie, fold := h.fold, reply := h.reply }
  | o => o

theorem endWithHostFields_ite {h : State} {c : Prop} [Decidable c] {o o' p p' : Host.Outcome State Fault Refusal}
    (ho : o' = endWithHostFields h o) (hp : p' = endWithHostFields h p) :
    (if c then o' else p') = endWithHostFields h (if c then o else p) := by
  split
  · exact ho
  · exact hp

/-- FOLD was sampled at acceptance (R159). -/
theorem State.withHostFields_sampledFold {s : State} (hbusy : s.busy = true) (h : State) :
    (s.withHostFields h).sampledFold = s.sampledFold := by
  obtain ⟨f, hf⟩ := Option.isSome_iff_exists.mp hbusy
  have hf' : (s.withHostFields h).inflight = some f := hf
  simp only [State.sampledFold, hf, hf']

/-! ## The mask selection and the pipeline -/

theorem State.withHostFields_autoMask (s h : State) (e : Level) :
    (s.withHostFields h).autoMask e = (s.autoMask e).withHostFields h := by
  have hside : (s.withHostFields h).side = s.side := rfl
  have hreserved : (s.withHostFields h).reserved = s.reserved := rfl
  have hmatrix : (s.withHostFields h).matrix = s.matrix := rfl
  unfold State.autoMask
  rw [hside, hreserved, hmatrix]
  generalize trialScores s.side e s.reserved s.matrix = scores
  rfl

theorem State.withHostFields_selectMask (s h : State) (e : Level) (c : Choice Nat) :
    (s.withHostFields h).selectMask e c = (s.selectMask e c).withHostFields h := by
  cases c with
  | auto => exact s.withHostFields_autoMask h e
  | fixed m => rfl

theorem State.withHostFields_generateInto (s h : State) (v : Nat) (e : Level) (mo : Mode) (data : List Byte)
    (c : Choice Nat) :
    (s.withHostFields h).generateInto v e mo data c = (s.generateInto v e mo data c).withHostFields h := by
  unfold State.generateInto
  rw [← State.withHostFields_selectMask]
  rfl

/-! ## The commands -/

theorem execCapq_withHostFields (s h : State) (ecc : BitVec 3) (ver : BitVec 6) (mode : BitVec 4) :
    execCapq ecc ver mode (s.withHostFields h) = endWithHostFields h (execCapq ecc ver mode s) := by
  unfold execCapq
  split
  · rfl
  split
  · rfl
  split
  · rfl
  · rfl

theorem execBchq_withHostFields (s h : State) (ecc : BitVec 3) (ver : BitVec 6) (mask : BitVec 4) :
    execBchq ecc ver mask (s.withHostFields h) = endWithHostFields h (execBchq ecc ver mask s) := by
  unfold execBchq
  split
  · rfl
  split
  · rfl
  split
  · rfl
  · rfl

theorem execValidate_withHostFields {s : State} (hbusy : s.busy = true) (h : State) (mode : BitVec 4) :
    execValidate mode (s.withHostFields h) = endWithHostFields h (execValidate mode s) := by
  unfold execValidate
  rw [State.withHostFields_sampledFold hbusy]
  split
  · rfl
  · exact endWithHostFields_ite rfl (endWithHostFields_ite rfl rfl)

theorem execPack_withHostFields (s h : State) (ecc : BitVec 3) (ver : BitVec 6) (mode : BitVec 4) :
    execPack ecc ver mode (s.withHostFields h) = endWithHostFields h (execPack ecc ver mode s) := by
  unfold execPack
  split
  · rfl
  refine endWithHostFields_ite rfl (endWithHostFields_ite rfl ?_)
  dsimp only
  split
  · rfl
  split
  · rfl
  · exact endWithHostFields_ite rfl rfl

theorem execAugment_withHostFields (s h : State) (ecc : BitVec 3) (ver : BitVec 6) :
    execAugment ecc ver (s.withHostFields h) = endWithHostFields h (execAugment ecc ver s) := by
  unfold execAugment
  split
  · rfl
  split
  · rfl
  · rfl

theorem execBuildbase_withHostFields (s h : State) (ver : BitVec 6) :
    execBuildbase ver (s.withHostFields h) = endWithHostFields h (execBuildbase ver s) := by
  unfold execBuildbase
  split
  · rfl
  · rfl

theorem execApplymask_withHostFields (s h : State) (mask : BitVec 4) :
    execApplymask mask (s.withHostFields h) = endWithHostFields h (execApplymask mask s) := by
  refine endWithHostFields_ite ?_ rfl
  split
  · rfl
  · rfl

theorem execWritefmt_withHostFields (s h : State) (ecc : BitVec 3) (mask : BitVec 4) :
    execWritefmt ecc mask (s.withHostFields h) = endWithHostFields h (execWritefmt ecc mask s) := by
  refine endWithHostFields_ite ?_ rfl
  split
  · rfl
  split
  · rfl
  · rfl

theorem execSelect_withHostFields (s h : State) (ecc : BitVec 3) (mask : BitVec 4) :
    execSelect ecc mask (s.withHostFields h) = endWithHostFields h (execSelect ecc mask s) := by
  refine endWithHostFields_ite ?_ rfl
  split
  · rfl
  split
  · rfl
  · rw [State.withHostFields_selectMask]
    rfl

theorem execGenerate_withHostFields {s : State} (hbusy : s.busy = true) (h : State) (ecc : BitVec 3) (ver : BitVec 6)
    (mode mask : BitVec 4) :
    execGenerate ecc ver mode mask (s.withHostFields h) = endWithHostFields h (execGenerate ecc ver mode mask s) := by
  have hdrew : (s.withHostFields h).drew (s.withHostFields h).len.toNat = (s.drew s.len.toNat).withHostFields h := rfl
  have hinput : (s.withHostFields h).inputBytes = s.inputBytes := rfl
  unfold execGenerate
  rw [State.withHostFields_sampledFold hbusy, hdrew, hinput]
  split
  · rfl
  refine endWithHostFields_ite rfl (endWithHostFields_ite rfl ?_)
  dsimp only
  split
  · rfl
  have hlen : (s.withHostFields h).len = s.len := rfl
  rw [hlen]
  split
  · rfl
  split
  · rfl
  · rw [State.withHostFields_generateInto]
    rfl

/-- A command in flight whose host fields are changed ends as it would have, with those fields kept. -/
theorem exec_withHostFields {s : State} (hbusy : s.busy = true) (h : State) (i : Instr) :
    exec i (s.withHostFields h) = endWithHostFields h (exec i s) := by
  cases i with
  | nop | tblinit => rfl
  | gfmul | gfexp | gflog | genrd | rsrem | place | score => exact endWithHostFields_ite rfl rfl
  | capq ecc ver mode => exact execCapq_withHostFields s h ecc ver mode
  | bchq ecc ver mask => exact execBchq_withHostFields s h ecc ver mask
  | validate mode => exact execValidate_withHostFields hbusy h mode
  | pack ecc ver mode => exact execPack_withHostFields s h ecc ver mode
  | augment ecc ver => exact execAugment_withHostFields s h ecc ver
  | buildbase ver => exact execBuildbase_withHostFields s h ver
  | applymask mask => exact execApplymask_withHostFields s h mask
  | writefmt ecc mask => exact execWritefmt_withHostFields s h ecc mask
  | select ecc mask => exact execSelect_withHostFields s h ecc mask
  | generate ecc ver mode mask => exact execGenerate_withHostFields hbusy h ecc ver mode mask

/-! ## The host's writes -/

/-- While BUSY a CSR write changes only those fields: CMD is dropped, LEN, ARGA and ARGB are guarded (R52, R164). -/
theorem State.writeCsr_running {s : State} (h : s.busy = true) (a : Nat) (w : Word) :
    s.writeCsr a w = s.withHostFields (s.writeCsr a w) := by
  by_cases hreg : isOperandReg a = true
  · rw [State.writeCsr_guarded h hreg]
    rfl
  have hoperands : a ≠ 0x010 ∧ a ≠ 0x014 ∧ a ≠ 0x018 := by simpa [isOperandReg, and_assoc] using hreg
  unfold State.writeCsr
  rw [if_neg (by simp [hreg])]
  split
  · rw [if_pos h]
    rfl
  · rfl
  · rfl
  · exact absurd rfl hoperands.1
  · exact absurd rfl hoperands.2.1
  · exact absurd rfl hoperands.2.2
  · rfl

/-- While BUSY a host write changes only those fields. -/
theorem State.hostWrite_running {s : State} (h : Running s) (a width : Nat) (w : Word) :
    s.hostWrite a width w = s.withHostFields (s.hostWrite a width w) := by
  obtain ⟨hbusy, hreset⟩ := h
  unfold State.hostWrite
  rw [if_neg (by simp [hreset]), if_pos hbusy]
  split
  · rfl
  split
  · rw [s.writeCsr_running hbusy]
    rfl
  · rfl

/-- Settles O11: the host's write changes only fields the command does not read, and it ends with them as the write
left them. -/
theorem hostWritesInTheBusyWindowLeaveTheCommandAlone : Obligations.HostWritesInTheBusyWindowLeaveTheCommandAlone := by
  intro i s t a width w hrun hexec
  obtain ⟨hbusy, -⟩ := id hrun
  rw [State.hostWrite_running hrun, exec_withHostFields hbusy, hexec]
  exact ⟨_, rfl, rfl⟩

end Sys2Proof.Machine
end

section
/-! SUPPORT. The bytes of a host access of a buffer or window: what a read shows of each, and what a store leaves
at each offset (20_memory.md R44 to R48). -/

namespace Sys2Proof.Machine

open Sys2Proof.Claims

/-! ## The bytes of a word -/

/-- The word of `n` bytes, the first in bits 7:0 (R48). -/
def wordOfBytes (f : Nat → Byte) (n : Nat) : Word :=
  (List.range n).foldr (fun i w => (w <<< 8) ||| (f i).setWidth 32) 0

theorem State.windowWord_eq (s : State) (a n : Nat) :
    s.windowWord a n = wordOfBytes (fun i => s.windowByte (s.draws + i) (a + i)) n := rfl

theorem wordOfBytes_succ (f : Nat → Byte) (n : Nat) :
    wordOfBytes f (n + 1) = (wordOfBytes (fun i => f (i + 1)) n <<< 8) ||| (f 0).setWidth 32 := by
  simp [wordOfBytes, List.range_succ_eq_map, List.foldr_map]

/-- Bit `k` is bit `k % 8` of byte `k / 8`. -/
theorem getLsbD_wordOfBytes (f : Nat → Byte) (n k : Nat) (hk : k < 32) :
    (wordOfBytes f n).getLsbD k = (decide (k < 8 * n) && (f (k / 8)).getLsbD (k % 8)) := by
  induction n generalizing f k with
  | zero => simp [wordOfBytes]
  | succ n ih =>
    rw [wordOfBytes_succ, BitVec.getLsbD_or, BitVec.getLsbD_shiftLeft, BitVec.getLsbD_setWidth]
    by_cases h8 : k < 8
    · simp [h8, hk, Nat.div_eq_of_lt h8, Nat.mod_eq_of_lt h8]
      omega
    · have hdiv : (k - 8) / 8 + 1 = k / 8 := by omega
      have hmod : (k - 8) % 8 = k % 8 := by omega
      have hhigh : (f 0).getLsbD k = false := BitVec.getLsbD_of_ge _ _ (by omega)
      have hlt : k - 8 < 8 * n ↔ k < 8 * (n + 1) := by omega
      rw [ih _ _ (by omega), hdiv, hmod, hhigh]
      simp [h8, hk, hlt]

theorem extractLsb'_wordOfBytes (f : Nat → Byte) {n i : Nat} (hi : i < n) (hn : n ≤ 4) :
    (wordOfBytes f n).extractLsb' (8 * i) 8 = f i := by
  refine BitVec.eq_of_getLsbD_eq fun k hk => ?_
  have hdiv : (8 * i + k) / 8 = i := by omega
  have hmod : (8 * i + k) % 8 = k := by omega
  rw [BitVec.getLsbD_extractLsb', getLsbD_wordOfBytes _ _ _ (by omega), hdiv, hmod]
  simp [hk]
  omega

theorem toNat_wordOfBytes_lt (f : Nat → Byte) (n : Nat) : (wordOfBytes f n).toNat < 2 ^ (8 * n) := by
  refine Nat.lt_pow_two_of_testBit _ fun k hk => ?_
  rw [BitVec.testBit_toNat]
  by_cases h32 : k < 32
  · rw [getLsbD_wordOfBytes _ _ _ h32]
    simp [hk]
  · exact BitVec.getLsbD_of_ge _ _ (by omega)

/-- The bytes of a word put together again are its low bits. -/
theorem wordOfBytes_extractLsb' (w : Word) {f : Nat → Byte} {n : Nat}
    (h : ∀ i, i < n → f i = w.extractLsb' (8 * i) 8) :
    wordOfBytes f n = BitVec.ofNat 32 (w.toNat % 2 ^ (8 * n)) := by
  refine BitVec.eq_of_getLsbD_eq fun k hk => ?_
  rw [getLsbD_wordOfBytes _ _ _ hk, BitVec.getLsbD_ofNat, Nat.testBit_mod_two_pow, BitVec.testBit_toNat]
  by_cases hn : k < 8 * n
  · have hsplit : 8 * (k / 8) + k % 8 = k := by omega
    rw [h _ (by omega), BitVec.getLsbD_extractLsb', hsplit]
    simp [hk, hn]
    omega
  · simp [hn]

/-! ## The accesses of an idle machine -/

/-- The widths of R49 as numbers of bytes. -/
theorem bytes_of_aligned {a width : Nat} (h : Aligned a width) :
    ∃ n, width = 8 * n ∧ (n = 1 ∨ n = 2 ∧ a % 2 = 0 ∨ n = 4 ∧ a % 4 = 0) := by
  obtain rfl | ⟨rfl, ha⟩ | ⟨rfl, ha⟩ := h
  · exact ⟨1, rfl, .inl rfl⟩
  · exact ⟨2, rfl, .inr (.inl ⟨rfl, ha⟩)⟩
  · exact ⟨4, rfl, .inr (.inr ⟨rfl, ha⟩)⟩

/-- An idle machine answers a read of a buffer or window with its bytes (R48, R51). -/
theorem State.hostRead_window {s : State} (h : Idle s) {a width : Nat} (ha : BufferOrWindow a)
    (hw : Aligned a width) :
    s.hostRead a width = { s with reply := .data (s.windowWord a (width / 8)), draws := s.draws + 4 } := by
  obtain ⟨hbusy, hreset⟩ := h
  have hlegal := (accessLegal_bufferOrWindow ha width).mpr hw
  simp [State.hostRead, hbusy, hreset, hlegal, isGuarded_bufferOrWindow ha, State.drew]

/-- An idle machine takes the bytes of a write of a buffer or window (R48, R51). -/
theorem State.hostWrite_window {s : State} (h : Idle s) {a width : Nat} (ha : BufferOrWindow a)
    (hw : Aligned a width) (w : Word) :
    s.hostWrite a width w = { s with reply := .done, mem := hostStoreBytes s.mem a (width / 8) w } := by
  obtain ⟨hbusy, hreset⟩ := h
  have hlegal := (accessLegal_bufferOrWindow ha width).mpr hw
  simp [State.hostWrite, hbusy, hreset, hlegal, isGuarded_bufferOrWindow ha]

/-- What a read of an idle machine answers, byte by byte (R48, R51). -/
theorem State.hostRead_bytes {s : State} (h : Idle s) {a width : Nat} (ha : BufferOrWindow a)
    (hw : Aligned a width) :
    ∃ v : Word, s.hostRead a width = { s with reply := .data v, draws := s.draws + 4 } ∧ v.toNat < 2 ^ width ∧
      ∀ i, i < width / 8 → v.extractLsb' (8 * i) 8 = s.windowByte (s.draws + i) (a + i) := by
  refine ⟨_, s.hostRead_window h ha hw, ?_⟩
  obtain ⟨n, rfl, hn⟩ := bytes_of_aligned hw
  rw [Nat.mul_div_cancel_left n (by decide), s.windowWord_eq]
  exact ⟨toNat_wordOfBytes_lt _ n, fun i hi => extractLsb'_wordOfBytes _ hi (by omega)⟩

/-! ## Stores -/

/-- What a store leaves at its offset depends on what stood there only. -/
theorem read_hostStore_congr {m m' : Memory} {a : Nat} (h : m'.read a = m.read a) (b : Byte) :
    (hostStore m' a b).read a = (hostStore m a b).read a := by
  rw [read_hostStore, read_hostStore, h]

theorem hostStoreBytes_succ (m : Memory) (a n : Nat) (w : Word) :
    hostStoreBytes m a (n + 1) w = hostStore (hostStoreBytes m a n w) (a + n) (w.extractLsb' (8 * n) 8) := by
  simp [hostStoreBytes, List.range_succ]

/-- Byte `i` of a store goes to the offset `a + i` as if stored alone (R48, R51). -/
theorem read_hostStoreBytes_at (m : Memory) (a : Nat) {n i : Nat} (hi : i < n) (w : Word) :
    (hostStoreBytes m a n w).read (a + i) = (hostStore m (a + i) (w.extractLsb' (8 * i) 8)).read (a + i) := by
  induction n with
  | zero => omega
  | succ n ih =>
    rw [hostStoreBytes_succ]
    by_cases hlast : i = n
    · subst hlast
      exact read_hostStore_congr (read_hostStoreBytes_other m a i _ w (.inr le_rfl)) _
    · rw [read_hostStore, if_neg (by omega), ih (by omega)]

/-- A byte stored where the host may not write is ignored (R45, R46). -/
theorem hostStore_ignored (m : Memory) {a : Nat} (h : isStorage a = false ∨ regionOf a = .rsvwin) (b : Byte) :
    hostStore m a b = m := by
  obtain heq | ⟨b', ⟨hstorage, -⟩, hregion, -⟩ := hostStore_cases m a b
  · exact heq
  · obtain h | h := h
    · simp [hstorage] at h
    · exact absurd h hregion

theorem hostStoreBytes_ignored (m : Memory) {a n : Nat} (w : Word)
    (h : ∀ i, i < n → isStorage (a + i) = false ∨ regionOf (a + i) = .rsvwin) : hostStoreBytes m a n w = m := by
  induction n with
  | zero => rfl
  | succ n ih =>
    rw [hostStoreBytes_succ, ih fun i hi => h i (by omega), hostStore_ignored m (h n (by omega))]

/-! ## The buffers -/

theorem State.windowByte_buffer (s : State) (k : Nat) {a : Nat} (h : 0x2000 ≤ a) (h' : a ≤ 0x601F) :
    s.windowByte k a = (s.mem.read a).getD (freeByte k) := by
  obtain hr | hr | hr | hr := regionOf_buffer a h h' <;> simp [State.windowByte, hr]

theorem read_hostStore_buffer (m : Memory) {a : Nat} (h : 0x2000 ≤ a) (h' : a ≤ 0x601F) (b : Byte) :
    (hostStore m a b).read a = some b := by
  obtain hr | hr | hr | hr := regionOf_buffer a h h' <;> simp [read_hostStore, hr]

/-- A read of a buffer that holds the bytes of a word answers its low bits (R48). -/
theorem State.hostRead_storedBytes {s : State} (h : Idle s) {a n : Nat}
    (hn : n = 1 ∨ n = 2 ∧ a % 2 = 0 ∨ n = 4 ∧ a % 4 = 0) (ha : 0x2000 ≤ a) (ha' : a ≤ 0x601F) {w : Word}
    (hstored : ∀ i, i < n → s.mem.read (a + i) = some (w.extractLsb' (8 * i) 8)) :
    (s.hostRead a (8 * n)).reply = .data (BitVec.ofNat 32 (w.toNat % 2 ^ (8 * n))) := by
  have hw : Aligned a (8 * n) := by unfold Aligned; omega
  rw [s.hostRead_window h (.inl ⟨ha, ha'⟩) hw, Nat.mul_div_cancel_left n (by decide), s.windowWord_eq,
    wordOfBytes_extractLsb' w fun i hi => ?_]
  rw [s.windowByte_buffer _ (by omega) (by omega), hstored i hi, Option.getD_some]

/-- Settles O18: a read shows the stored bytes, a store leaves its own at each offset, and so a read after it
puts them together again. -/
theorem bufferAccessesAreLittleEndian : Obligations.BufferAccessesAreLittleEndian := by
  intro s a width w h hw ha ha'
  have hbuffer : BufferOrWindow a := .inl ⟨ha, ha'⟩
  obtain ⟨n, rfl, hn⟩ := bytes_of_aligned hw
  rw [Nat.mul_div_cancel_left n (by decide)]
  have hrange : ∀ i, i < n → 0x2000 ≤ a + i ∧ a + i ≤ 0x601F := fun i hi => by omega
  have hstored : ∀ i, i < n →
      (hostStoreBytes s.mem a n w).read (a + i) = some (w.extractLsb' (8 * i) 8) := fun i hi => by
    rw [read_hostStoreBytes_at _ _ hi, read_hostStore_buffer _ (hrange i hi).1 (hrange i hi).2]
  refine ⟨?_, _, rfl, ?_⟩
  · obtain ⟨v, hread, hlt, hbytes⟩ := s.hostRead_bytes h hbuffer hw
    refine ⟨v, hread, hlt, fun i b hi hb => ?_⟩
    rw [hbytes i (by omega), s.windowByte_buffer _ (hrange i hi).1 (hrange i hi).2, hb, Option.getD_some]
  rw [s.hostWrite_window h hbuffer hw, Nat.mul_div_cancel_left n (by decide)]
  refine ⟨rfl, fun i hi => ?_, fun x hx => read_hostStoreBytes_other _ _ _ _ _ hx, ?_⟩
  · rw [hstored i hi, BitVec.extractLsb', Nat.shiftRight_eq_div_pow]
  · exact State.hostRead_storedBytes (s := { s with reply := .done, mem := hostStoreBytes s.mem a n w }) h hn ha ha'
      hstored

end Sys2Proof.Machine
end

section
/-! SUPPORT. The matrix windows, what each of their bytes shows and takes (20_memory.md R46, 10_state.md R37), and
what the engine reads of the buffers and the matrix (20_memory.md R59). -/

namespace Sys2Proof.Machine

open Sys2Proof.Claims

/-! ## Reads -/

theorem isCell_iff {base r c : Nat} (hbase : base % 0x10000 = 0) (hr : r ≤ 255) (hc : c ≤ 255) :
    isCell (base + 256 * r + c) = true ↔ r ≤ 176 ∧ c ≤ 176 := by
  have hrow : rowOf (base + 256 * r + c) = r := by unfold rowOf; omega
  have hcol : colOf (base + 256 * r + c) = c := by unfold colOf; omega
  simp only [isCell, hrow, hcol, maxSide, Bool.and_eq_true, decide_eq_true_eq]
  omega

/-- Legal memory lists storage only, so that any other offset reads as unlisted. -/
theorem Memory.Legal.read_of_not_storage {m : Memory} (hm : m.Legal) {a : Nat} (h : isStorage a = false) :
    m.read a = unlisted a := by
  unfold Memory.read
  split
  · next e he =>
    have hea : e.1 = a := by simpa using List.find?_some he
    obtain ⟨hstorage, -⟩ := hm.2 e (List.mem_of_find?_eq_some he)
    simp [hea, h] at hstorage
  · rfl

/-- Outside the array a matrix window reads 0 (R46). -/
theorem Memory.Legal.read_outside_array {m : Memory} (hm : m.Legal) {a : Nat} (h : 0x10000 ≤ a) (h' : a ≤ 0x2FFFF)
    (hcell : isCell a = false) : m.read a = some 0 := by
  by_cases hmtx : a ≤ 0x1FFFF
  · have hr := regionOf_mtxwin a h hmtx
    rw [hm.read_of_not_storage (by simp [isStorage, hr, hcell])]
    simp [unlisted, hr, hcell]
  · have hr := regionOf_rsvwin a (by omega) h'
    rw [hm.read_of_not_storage (by simp [isStorage, hr, hcell])]
    simp [unlisted, hr]

/-- No offset of RSVWIN is unwritten (R42). -/
theorem Memory.exists_read_rsvwin (m : Memory) {a : Nat} (h : 0x20000 ≤ a) (h' : a ≤ 0x2FFFF) :
    ∃ b, m.read a = some b := by
  have hunlisted : unlisted a = some 0 := by simp [unlisted, regionOf_rsvwin a h h']
  rw [Memory.read_eq_listed, hunlisted]
  cases m.listed a with
  | none => exact ⟨_, rfl⟩
  | some b => exact ⟨b, rfl⟩

theorem State.windowByte_mtxwin (s : State) (k : Nat) {a : Nat} (h : 0x10000 ≤ a) (h' : a ≤ 0x1FFFF) :
    s.windowByte k a = (s.mem.read a).getD (cellByte (freeBit k)) := by
  simp [State.windowByte, regionOf_mtxwin a h h']

theorem State.windowByte_rsvwin (s : State) (k : Nat) {a : Nat} (h : 0x20000 ≤ a) (h' : a ≤ 0x2FFFF) :
    s.windowByte k a = (s.mem.read a).getD (freeByte k) := by
  simp [State.windowByte, regionOf_rsvwin a h h']

/-- A matrix window shows what memory holds. -/
theorem State.windowByte_of_read (s : State) (k : Nat) {a : Nat} (h : 0x10000 ≤ a) (h' : a ≤ 0x2FFFF) {b : Byte}
    (hb : s.mem.read a = some b) : s.windowByte k a = b := by
  by_cases hmtx : a ≤ 0x1FFFF
  · rw [s.windowByte_mtxwin k h hmtx, hb, Option.getD_some]
  · rw [s.windowByte_rsvwin k (by omega) h', hb, Option.getD_some]

/-- A byte of a matrix window is 0 or 1, an unwritten MTX cell's a free bit (R46). -/
theorem State.toNat_windowByte_le {s : State} (hm : s.MemInv) (k : Nat) {a : Nat} (h : 0x10000 ≤ a)
    (h' : a ≤ 0x2FFFF) : (s.windowByte k a).toNat ≤ 1 := by
  cases hread : s.mem.read a with
  | some b =>
    rw [s.windowByte_of_read k h h' hread]
    exact Memory.Legal.read_le hm h hread
  | none =>
    have hmtx : a ≤ 0x1FFFF := by
      by_contra hrsv
      obtain ⟨b, hb⟩ := s.mem.exists_read_rsvwin (a := a) (by omega) h'
      simp [hread] at hb
    rw [s.windowByte_mtxwin k h hmtx, hread]
    exact toNat_cellByte_le _

/-! ## Stores -/

/-- A byte stored in MTXWIN leaves its bit 0 in a cell (R46). -/
theorem read_hostStore_mtxwin (m : Memory) {a : Nat} (h : 0x10000 ≤ a) (h' : a ≤ 0x1FFFF) (b : Byte) :
    (hostStore m a b).read a = if isCell a then some (cellByte (byteCell b)) else m.read a := by
  simp [read_hostStore, regionOf_mtxwin a h h']

/-- A store in MTXWIN leaves bit 8i of the data in the cell at offset i of the store (R46, R48). -/
theorem read_hostStoreBytes_cell (m : Memory) {a n r c : Nat} (w : Word) (hr : r ≤ 255) (hc : c ≤ 255) :
    (hostStoreBytes m a n w).read (0x10000 + 256 * r + c) =
      if r ≤ 176 ∧ c ≤ 176 ∧ a ≤ 0x10000 + 256 * r + c ∧ 0x10000 + 256 * r + c < a + n then
        some (if w.getLsbD (8 * (0x10000 + 256 * r + c - a)) then 1 else 0)
      else m.read (0x10000 + 256 * r + c) := by
  have hcell := isCell_iff (base := 0x10000) (by decide) hr hc
  obtain ⟨x, hx⟩ : ∃ x, 0x10000 + 256 * r + c = x := ⟨_, rfl⟩
  rw [hx] at hcell ⊢
  by_cases hin : a ≤ x ∧ x < a + n
  · obtain ⟨i, rfl⟩ : ∃ i, x = a + i := ⟨x - a, by omega⟩
    have hbit : (w.extractLsb' (8 * i) 8).getLsbD 0 = w.getLsbD (8 * i) := by simp
    rw [read_hostStoreBytes_at m a (by omega), read_hostStore_mtxwin m (by omega) (by omega)]
    simp only [hcell, hin, and_true, Nat.add_sub_cancel_left, byteCell, hbit]
    rfl
  · rw [read_hostStoreBytes_other m a n x w (by omega), if_neg fun h => hin h.2.2]

/-- Settles O19: the reads cell by cell, the stores of MTXWIN cell by cell, and RSVWIN, whose bytes ignore a
store. -/
theorem matrixWindowsReadAndStoreCells : Obligations.MatrixWindowsReadAndStoreCells := by
  intro s a width w h hmem hw ha ha'
  have hwindow : BufferOrWindow a := .inr (.inr ⟨ha, ha'⟩)
  obtain ⟨n, rfl, hn⟩ := bytes_of_aligned hw
  rw [s.hostWrite_window h hwindow hw, Nat.mul_div_cancel_left n (by decide)]
  refine ⟨?_, fun hmtx => ⟨_, rfl, rfl, fun r c hr hc => read_hostStoreBytes_cell s.mem w hr hc⟩,
    fun hmtx x hx => read_hostStoreBytes_other _ _ _ _ _ (by omega), fun hrsv => ?_⟩
  · obtain ⟨v, hread, hlt, hbytes⟩ := s.hostRead_bytes h hwindow hw
    refine ⟨v, hread, hlt, fun i r c base hi hr hc hbase hx => ?_⟩
    have hlow : 0x10000 ≤ a + i := by omega
    have hhigh : a + i ≤ 0x2FFFF := by omega
    have hcell := isCell_iff (base := base) (by omega) hr hc
    rw [← hx] at hcell
    rw [hbytes i (by omega)]
    refine ⟨fun hout => ?_, fun hr' hc' => ⟨s.toNat_windowByte_le hmem _ hlow hhigh,
      fun b hb => s.windowByte_of_read _ hlow hhigh hb, fun hrsv => ?_⟩⟩
    · have houtside : isCell (a + i) = false := by
        rw [← Bool.not_eq_true, hcell]
        omega
      exact s.windowByte_of_read _ hlow hhigh (Memory.Legal.read_outside_array hmem hlow hhigh houtside)
    · obtain ⟨b, hb⟩ := s.mem.exists_read_rsvwin (a := a + i) (by omega) hhigh
      rw [s.windowByte_of_read _ hlow hhigh hb, hb]
  · rw [hostStoreBytes_ignored s.mem w fun i hi => .inr (regionOf_rsvwin _ (by omega) (by omega))]

/-! ## What the engine reads -/

/-- Settles O60: the ranges byte by byte, the square cell by cell. -/
theorem engineReadsFollowMemory : Obligations.EngineReadsFollowMemory := by
  intro s
  have hgrid : ∀ f : Nat → List Bool, (∀ r, (f r).length = s.side) →
      IsGrid s.side ((List.range s.side).map f) := fun f hf => ⟨by simp, by simpa using fun r _ => hf r⟩
  refine ⟨fun a n => ⟨s.length_readBytes a n, fun i hi => s.getElem?_readBytes a n i hi⟩, rfl, rfl,
    hgrid _ fun r => ?_, hgrid _ fun r => ?_, fun r c b hr hc => ⟨fun hb => ?_, fun hb => ?_⟩⟩
  · simp [State.matrixRow]
  · simp
  · rw [s.cellAt_matrix r c hr hc, cellAddr, mtxBase, hb, Option.map_some, Option.getD_some, byteCell]
  · rw [s.cellAt_reserved r c hr hc, cellAddr, rsvBase, hb, Option.map_some, Option.getD_some, byteCell]

end Sys2Proof.Machine
end

section
/-! SUPPORT. The GF tables as the powers of alpha and their exponents (40_gf_tables.md R75 to R80), and the windows
that show them (20_memory.md R45). -/

namespace Sys2Proof.Machine

open Sys2Proof.Claims

/-! ## The powers of alpha -/

/-- The construction's shift and reduction is multiplication by x (R75, R76). -/
theorem xtime_eq_timesX (a : Byte) : xtime a = timesX a := by
  have htop : (a.setWidth 9 <<< 1).getLsbD 8 = a.getLsbD 7 := by simp
  have hlow : (a.setWidth 9 <<< 1).setWidth 8 = a <<< 1 := BitVec.eq_of_toNat_eq (by simp [Nat.shiftLeft_eq])
  unfold xtime timesX
  dsimp only
  rw [htop]
  split
  · rw [BitVec.setWidth_xor, hlow]
    rfl
  · exact hlow

theorem length_powersFrom (n : Nat) (a : Byte) : (powersFrom n a).length = n := by
  induction n generalizing a with
  | zero => rfl
  | succ n ih => simp [powersFrom, ih]

theorem getElem?_powersFrom (n : Nat) (a : Byte) {i : Nat} (h : i < n) :
    (powersFrom n a)[i]? = some (timesX^[i] a) := by
  induction n generalizing a i with
  | zero => omega
  | succ n ih =>
    cases i with
    | zero => rfl
    | succ i => rw [powersFrom, List.getElem?_cons_succ, ih _ (by omega), xtime_eq_timesX, Function.iterate_succ_apply]

@[simp] theorem length_expTable : expTable.length = 255 := length_powersFrom 255 1

/-- `EXP[i]` is the i-th power of alpha (R76). -/
theorem getElem?_expTable {i : Nat} (h : i < 255) : expTable[i]? = some (alphaPow i) := getElem?_powersFrom 255 1 h

theorem getD_expTable {i : Nat} (h : i < 255) (d : Byte) : expTable.getD i d = alphaPow i := by
  rw [List.getD_eq_getElem?_getD, getElem?_expTable h, Option.getD_some]

theorem getElem_expTable {i : Nat} (h : i < expTable.length) : expTable[i] = alphaPow i :=
  Option.some.inj ((List.getElem?_eq_getElem h).symm.trans (getElem?_expTable (by simpa using h)))

theorem alphaPow_255 : alphaPow 255 = 1 := by decide +kernel

/-- Alpha has order 255: it is no proper divisor of it (R75). -/
theorem minimalPeriod_timesX : Function.minimalPeriod timesX 1 = 255 := by
  have hdvd : Function.minimalPeriod timesX 1 ∣ 255 := Function.IsPeriodicPt.minimalPeriod_dvd alphaPow_255
  have hperiod : alphaPow (Function.minimalPeriod timesX 1) = 1 := Function.iterate_minimalPeriod
  have hproper : ∀ d ∈ Nat.properDivisors 255, alphaPow d ≠ 1 := by decide +kernel
  by_contra hne
  exact hproper _ (Nat.mem_properDivisors.mpr ⟨hdvd, lt_of_le_of_ne (Nat.le_of_dvd (by decide) hdvd) hne⟩) hperiod

/-- The 255 powers of alpha are different (R76). -/
theorem alphaPow_inj {i j : Nat} (hi : i < 255) (hj : j < 255) : alphaPow i = alphaPow j ↔ i = j :=
  Function.iterate_eq_iterate_iff_of_lt_minimalPeriod (minimalPeriod_timesX.symm ▸ hi)
    (minimalPeriod_timesX.symm ▸ hj)

/-- No power of alpha is 0, for 0 stays 0 and the 255th power is 1. -/
theorem alphaPow_ne_zero {i : Nat} (h : i ≤ 255) : alphaPow i ≠ 0 := by
  intro hzero
  have hfixed : timesX^[255 - i] 0 = 0 := Function.iterate_fixed rfl _
  have hsplit : alphaPow 255 = timesX^[255 - i] (alphaPow i) := by
    rw [alphaPow, alphaPow, ← Function.iterate_add_apply, Nat.sub_add_cancel h]
  rw [hzero, hfixed, alphaPow_255] at hsplit
  exact absurd hsplit (by decide)

theorem nodup_expTable : expTable.Nodup := by
  refine List.nodup_iff_injective_get.mpr fun i j hij => Fin.ext ?_
  have hi : i.val < 255 := by simpa using i.isLt
  have hj : j.val < 255 := by simpa using j.isLt
  simp only [List.get_eq_getElem, getElem_expTable] at hij
  exact (alphaPow_inj hi hj).mp hij

/-! ## Exponents -/

theorem getD_logTable (x : Byte) (d : Byte) :
    logTable.getD x.toNat d = if x = 0 then 0xFF else BitVec.ofNat 8 (expTable.idxOf x) := by
  have hzero : x.toNat = 0 ↔ x = 0 := ⟨fun h => BitVec.eq_of_toNat_eq h, fun h => h ▸ rfl⟩
  simp [logTable, List.getD_eq_getElem?_getD, List.getElem?_range x.isLt, hzero]

/-- LOG of a power of alpha is its exponent (R77). -/
theorem getD_logTable_alphaPow {i : Nat} (h : i < 255) (d : Byte) :
    logTable.getD (alphaPow i).toNat d = BitVec.ofNat 8 i := by
  have hi : i < expTable.length := by simpa using h
  rw [getD_logTable, if_neg (alphaPow_ne_zero h.le), ← getElem_expTable hi, nodup_expTable.idxOf_getElem i hi]

/-! ## Generators -/

theorem length_genStep (t : GfTables) (k : Nat) (p : List Byte) : (genStep t k p).length = k := by simp [genStep]

/-- GEN[K] has K entries; from `p` = GEN[K-1] on the i-th is GEN[K+i] (R80). -/
theorem length_getD_genFrom (t : GfTables) (n k : Nat) (p : List Byte) (i : Nat) :
    ((genFrom t n k p).getD i []).length = if i < n then k + i else 0 := by
  induction n generalizing k p i with
  | zero => rfl
  | succ n ih =>
    cases i with
    | zero => simp [genFrom, length_genStep]
    | succ i =>
      rw [genFrom, List.getD_cons_succ, ih]
      simp only [Nat.add_lt_add_iff_right, Nat.add_right_comm, Nat.add_assoc]

/-- GEN[K] has K entries for K up to 30, and there are no others (R79). -/
theorem length_genAt_builtTables (k : Nat) : (builtTables.genAt k).length = if k ≤ 30 then k else 0 := by
  cases k with
  | zero => rfl
  | succ k =>
    have hgen := length_getD_genFrom { exp := expTable, log := logTable, gen := [] } 30 1 [] k
    rw [GfTables.genAt, builtTables, List.getD_cons_succ, hgen]
    simp only [Nat.add_one_le_iff, Nat.add_comm 1]

/-! ## The windows -/

theorem regionOf_expwin (a : Nat) (h : 0x7000 ≤ a) (h' : a ≤ 0x70FF) : regionOf a = .expwin := by
  simp (disch := omega) only [regionOf, if_neg, if_pos]

theorem regionOf_logwin (a : Nat) (h : 0x7100 ≤ a) (h' : a ≤ 0x71FF) : regionOf a = .logwin := by
  simp (disch := omega) only [regionOf, if_neg, if_pos]

theorem regionOf_genwin (a : Nat) (h : 0x7200 ≤ a) (h' : a ≤ 0x75FF) : regionOf a = .genwin := by
  simp (disch := omega) only [regionOf, if_neg, if_pos]

/-- The three table windows lie one after the other (R44). -/
theorem regionOf_tableWindow (a : Nat) (h : 0x7000 ≤ a) (h' : a ≤ 0x75FF) :
    regionOf a = .expwin ∨ regionOf a = .logwin ∨ regionOf a = .genwin := by
  by_cases hexp : a ≤ 0x70FF
  · exact .inl (regionOf_expwin a h hexp)
  by_cases hlog : a ≤ 0x71FF
  · exact .inr (.inl (regionOf_logwin a (by omega) hlog))
  · exact .inr (.inr (regionOf_genwin a (by omega) h'))

theorem State.windowByte_tableWindow (s : State) (k : Nat) {a : Nat} (h : 0x7000 ≤ a) (h' : a ≤ 0x75FF) :
    s.windowByte k a = s.tableByte a := by
  obtain hr | hr | hr := regionOf_tableWindow a h h' <;> simp [State.windowByte, hr]

/-- The host writes no byte of a table window (R45). -/
theorem isStorage_tableWindow {a : Nat} (h : 0x7000 ≤ a) (h' : a ≤ 0x75FF) : isStorage a = false := by
  obtain hr | hr | hr := regionOf_tableWindow a h h' <;> simp [isStorage, hr]

theorem State.tableByte_unbuilt {s : State} (h : s.tables = none) (a : Nat) : s.tableByte a = 0 := by
  simp [State.tableByte, h]

theorem State.tableByte_expwin {s : State} {t : GfTables} (ht : s.tables = some t) {j : Nat} (hj : j ≤ 255) :
    s.tableByte (0x7000 + j) = t.exp.getD j 0 := by
  have hindex : (0x7000 + j) % 256 = j := by omega
  simp only [State.tableByte, ht, regionOf_expwin (0x7000 + j) (by omega) (by omega), hindex]

theorem State.tableByte_logwin {s : State} {t : GfTables} (ht : s.tables = some t) {j : Nat} (hj : j ≤ 255) :
    s.tableByte (0x7100 + j) = t.log.getD j 0 := by
  have hindex : (0x7100 + j) % 256 = j := by omega
  simp only [State.tableByte, ht, regionOf_logwin (0x7100 + j) (by omega) (by omega), hindex]

theorem State.tableByte_genwin {s : State} {t : GfTables} (ht : s.tables = some t) {k j : Nat} (hk : k ≤ 31)
    (hj : j ≤ 31) : s.tableByte (0x7200 + 32 * k + j) = (t.genAt k).getD j 0 := by
  have hrow : (0x7200 + 32 * k + j - 0x7200) / 32 = k := by omega
  have hcolumn : (0x7200 + 32 * k + j) % 32 = j := by omega
  simp only [State.tableByte, ht, regionOf_genwin (0x7200 + 32 * k + j) (by omega) (by omega), hrow, hcolumn,
    GfTables.genAt]

/-- Settles O20: a store of a table window is ignored byte by byte, and a read shows the entry of each byte. -/
theorem tableWindowsShowTheTables : Obligations.TableWindowsShowTheTables := by
  intro s a width w h htables hw ha ha'
  have hwindow : BufferOrWindow a := .inr (.inl ⟨ha, ha'⟩)
  have hlast : ∀ i, i < width / 8 → a + i ≤ 0x75FF := fun i hi => by
    obtain ⟨n, rfl, hn⟩ := bytes_of_aligned hw
    omega
  refine ⟨?_, ?_⟩
  · rw [s.hostWrite_window h hwindow hw, hostStoreBytes_ignored s.mem w fun i hi =>
      .inl (isStorage_tableWindow (by omega) (hlast i hi))]
  obtain ⟨v, hread, hlt, hbytes⟩ := s.hostRead_bytes h hwindow hw
  refine ⟨v, hread, hlt, fun i hi => ?_⟩
  rw [hbytes i hi, s.windowByte_tableWindow _ (by omega) (hlast i hi)]
  refine ⟨fun hnone => State.tableByte_unbuilt hnone _, fun hbuilt => ?_⟩
  obtain ⟨t, ht⟩ := Option.ne_none_iff_exists'.mp hbuilt
  obtain rfl := htables t ht
  refine ⟨fun j hj hx => ?_, fun hx => ?_, fun hx => ?_, fun j hj hx => ?_, fun k j hk hj hx => ?_⟩
  · rw [hx, State.tableByte_expwin ht (j := j) (by omega)]
    exact getD_expTable (by omega) 0
  · rw [hx, State.tableByte_expwin ht (j := 255) (by decide)]
    exact List.getD_eq_default _ _ length_expTable.le
  · rw [hx, State.tableByte_logwin ht (j := 0) (by decide)]
    exact getD_logTable 0 0
  · rw [hx, State.tableByte_logwin ht (Nat.le_of_lt_succ (alphaPow j).isLt)]
    exact getD_logTable_alphaPow (by omega) 0
  · rw [hx, State.tableByte_genwin ht hk hj]
    by_cases hentry : 1 ≤ k ∧ k ≤ 30 ∧ j < k
    · rw [if_pos hentry]
    · rw [if_neg hentry]
      refine List.getD_eq_default _ _ ?_
      rw [length_genAt_builtTables]
      split <;> omega

end Sys2Proof.Machine
end

section
/-! SUPPORT. The command word as its fields and as its bytes (30_encoding.md R61 to R73, 20_memory.md R48): what the
field functions read of an assembled word, which words decode, and which of its bits a command keeps. -/

namespace Sys2Proof

open Sys2Proof.Claims

/-! ## Slices of an appended word -/

/-- A slice of the upper part, that part standing `n` bits higher. -/
theorem extractLsb'_append_of_upper {m n start len : Nat} {x : BitVec m} {y : BitVec n} {v : BitVec len}
    (h : x.extractLsb' start len = v) : (x ++ y).extractLsb' (start + n) len = v := by
  rw [BitVec.extractLsb'_append_eq_of_le (Nat.le_add_left n start), Nat.add_sub_cancel, h]

/-- A slice put under the slice that follows it is the slice of both. -/
theorem append_extractLsb'_of_upper {k m start len : Nat} {w : BitVec k} {x : BitVec m}
    (h : x = w.extractLsb' (start + len) m) : x ++ w.extractLsb' start len = w.extractLsb' start (m + len) :=
  h ▸ BitVec.extractLsb'_append_extractLsb'_eq_extractLsb' rfl

/-- Conjunction part by part. -/
theorem append_and_append {m n : Nat} {x x' u : BitVec m} {y y' v : BitVec n} (h : x &&& x' = u) (h' : y &&& y' = v) :
    (x ++ y) &&& (x' ++ y') = u ++ v := by
  rw [BitVec.and_append, h, h']

/-! ## The fields of a word (R62) -/

section
variable (op : BitVec 5) (ecc : BitVec 3) (ver : BitVec 6) (mode mask : BitVec 4)

@[simp] theorem fieldOp_wordOfFields : fieldOp (wordOfFields op ecc ver mode mask) = op :=
  BitVec.extractLsb'_append_eq_right

@[simp] theorem fieldEcc_wordOfFields : fieldEcc (wordOfFields op ecc ver mode mask) = ecc :=
  extractLsb'_append_of_upper BitVec.extractLsb'_append_eq_right

@[simp] theorem fieldVer_wordOfFields : fieldVer (wordOfFields op ecc ver mode mask) = ver :=
  extractLsb'_append_of_upper <| extractLsb'_append_of_upper BitVec.extractLsb'_append_eq_right

@[simp] theorem fieldMode_wordOfFields : fieldMode (wordOfFields op ecc ver mode mask) = mode :=
  extractLsb'_append_of_upper <| extractLsb'_append_of_upper <| extractLsb'_append_of_upper
    BitVec.extractLsb'_append_eq_right

@[simp] theorem fieldMask_wordOfFields : fieldMask (wordOfFields op ecc ver mode mask) = mask :=
  extractLsb'_append_of_upper <| extractLsb'_append_of_upper <| extractLsb'_append_of_upper <|
    extractLsb'_append_of_upper BitVec.extractLsb'_append_eq_right

@[simp] theorem fieldRsvd_wordOfFields : fieldRsvd (wordOfFields op ecc ver mode mask) = 0 :=
  extractLsb'_append_of_upper <| extractLsb'_append_of_upper <| extractLsb'_append_of_upper <|
    extractLsb'_append_of_upper BitVec.extractLsb'_append_eq_left

theorem wordOfFields_eq_or :
    wordOfFields op ecc ver mode mask =
      op.setWidth 32 ||| (ecc.setWidth 32 <<< 5) ||| (ver.setWidth 32 <<< 8) ||| (mode.setWidth 32 <<< 14) |||
        (mask.setWidth 32 <<< 18) := by
  refine BitVec.eq_of_getLsbD_eq fun i hi => ?_
  simp only [wordOfFields, BitVec.getLsbD_append, BitVec.getLsbD_or, BitVec.getLsbD_shiftLeft, BitVec.getLsbD_setWidth]
  interval_cases i <;> simp

/-- A word without RSVD bits is assembled from its fields. -/
theorem wordOfFields_fields {w : Word} (h : fieldRsvd w = 0) :
    wordOfFields (fieldOp w) (fieldEcc w) (fieldVer w) (fieldMode w) (fieldMask w) = w := by
  have hmask : 0#10 ++ fieldMask w = w.extractLsb' 18 14 := append_extractLsb'_of_upper h.symm
  have hmode : 0#10 ++ fieldMask w ++ fieldMode w = w.extractLsb' 14 18 := append_extractLsb'_of_upper hmask
  have hver : 0#10 ++ fieldMask w ++ fieldMode w ++ fieldVer w = w.extractLsb' 8 24 :=
    append_extractLsb'_of_upper hmode
  have hecc : 0#10 ++ fieldMask w ++ fieldMode w ++ fieldVer w ++ fieldEcc w = w.extractLsb' 5 27 :=
    append_extractLsb'_of_upper hver
  exact (append_extractLsb'_of_upper hecc).trans BitVec.extractLsb'_eq_self

end

theorem toNat_fieldOp (w : Word) : (fieldOp w).toNat = w.toNat % 32 := by simp [fieldOp]

theorem toNat_fieldRsvd (w : Word) : (fieldRsvd w).toNat = w.toNat / 2 ^ 22 := by
  have hw := w.isLt
  rw [fieldRsvd, BitVec.extractLsb'_toNat, Nat.shiftRight_eq_div_pow]
  omega

theorem fieldRsvd_eq_zero_iff (w : Word) : fieldRsvd w = 0 ↔ w.toNat < 2 ^ 22 := by
  rw [BitVec.toNat_eq, toNat_fieldRsvd]
  exact Nat.div_eq_zero_iff_lt (by decide)

/-- Settles O1: the assembly bit by bit, and each field function as a slice of the word. -/
theorem commandWordLayout : Obligations.CommandWordLayout := by
  refine ⟨wordOfFields_eq_or, fun w => ⟨toNat_fieldOp w, ?_, ?_, ?_, ?_, toNat_fieldRsvd w⟩⟩
  · simp [fieldEcc, Nat.shiftRight_eq_div_pow]
  · simp [fieldVer, Nat.shiftRight_eq_div_pow]
  · simp [fieldMode, Nat.shiftRight_eq_div_pow]
  · simp [fieldMask, Nat.shiftRight_eq_div_pow]

/-! ## The word as bytes (R48) -/

theorem wordOfBytes_slices (w : Word) :
    wordOfBytes (w.extractLsb' 0 8) (w.extractLsb' 8 8) (w.extractLsb' 16 8) (w.extractLsb' 24 8) = w := by
  have hupper : w.extractLsb' 24 8 ++ w.extractLsb' 16 8 = w.extractLsb' 16 16 := append_extractLsb'_of_upper rfl
  have hlower : w.extractLsb' 24 8 ++ w.extractLsb' 16 8 ++ w.extractLsb' 8 8 = w.extractLsb' 8 24 :=
    append_extractLsb'_of_upper hupper
  exact (append_extractLsb'_of_upper hlower).trans BitVec.extractLsb'_eq_self

theorem decodeBytes_bytesOfWord (w : Word) (rest : List Byte) :
    decodeBytes (bytesOfWord w ++ rest) = (decodeWord w).map fun i => (i, rest) :=
  congrArg (fun v => (decodeWord v).map fun i => (i, rest)) (wordOfBytes_slices w)

theorem decodeWord_of_decodeBytes {w : Word} {i : Instr} {rest : List Byte}
    (h : decodeBytes (bytesOfWord w) = .ok (i, rest)) : decodeWord w = .ok i := by
  rw [← List.append_nil (bytesOfWord w), decodeBytes_bytesOfWord] at h
  cases hw : decodeWord w with
  | error e => simp [hw, Except.map] at h
  | ok j => simp_all [Except.map]

theorem decodeWord_of_decodeTableWord {w : Nat} {i : Instr} (h : decodeTableWord 32 w = some i) :
    decodeWord (tableWord 32 w) = .ok i := by
  unfold decodeTableWord at h
  split at h
  · next hdec => exact Option.some.inj h ▸ decodeWord_of_decodeBytes hdec
  · cases h

theorem tableWord_32 (w : Nat) : tableWord 32 w = BitVec.ofNat 32 w := by
  simp [tableWord, BitVec.toNat_eq]

/-! ## Decoding what was encoded -/

theorem decodeWord_wordOfFields (op : BitVec 5) (ecc : BitVec 3) (ver : BitVec 6) (mode mask : BitVec 4) :
    decodeWord (wordOfFields op ecc ver mode mask) = decodeFields op ecc ver mode mask := by simp [decodeWord]

/-- Every command assembles with its own OP and the fields it reads, and the opcode map reads these back. -/
theorem decodeWord_encode (i : Instr) : decodeWord (encode i) = .ok i := by
  cases i <;> exact decodeWord_wordOfFields ..

/-- Settles O2: the field functions invert the assembly, and the four bytes make the word again. -/
theorem decodeOfEncodeIsTheCommand : Obligations.DecodeOfEncodeIsTheCommand := by
  intro i rest
  refine ⟨decodeWord_encode i, ?_⟩
  rw [decodeBytes_bytesOfWord, decodeWord_encode]
  rfl

/-! ## What decoding keeps -/

/-- The field where a command reads it, 0 where it does not (R69, R73). -/
def fieldIf {n : Nat} (reads : Bool) (x : BitVec n) : BitVec n := if reads then x else 0

theorem and_fieldIf_allOnes {n : Nat} (reads : Bool) (x : BitVec n) :
    x &&& fieldIf reads (BitVec.allOnes n) = fieldIf reads x := by
  cases reads
  · exact BitVec.and_zero
  · exact BitVec.and_allOnes

/-- Under the bits of OP and of the fields a command reads, a word is assembled from these fields alone. -/
theorem wordOfFields_and_read {op : BitVec 5} {n : Nat} (hop : op.toNat = n) (ecc : BitVec 3) (ver : BitVec 6)
    (mode mask : BitVec 4) (readsEcc readsVer readsMode readsMask : Bool) :
    wordOfFields (BitVec.ofNat 5 n) (fieldIf readsEcc ecc) (fieldIf readsVer ver) (fieldIf readsMode mode)
        (fieldIf readsMask mask) =
      wordOfFields op ecc ver mode mask &&&
        wordOfFields (BitVec.allOnes 5) (fieldIf readsEcc (BitVec.allOnes 3)) (fieldIf readsVer (BitVec.allOnes 6))
          (fieldIf readsMode (BitVec.allOnes 4)) (fieldIf readsMask (BitVec.allOnes 4)) := by
  rw [← hop, BitVec.ofNat_toNat, BitVec.setWidth_eq]
  symm
  refine append_and_append (append_and_append (append_and_append (append_and_append (append_and_append
    BitVec.and_self ?_) ?_) ?_) ?_) BitVec.and_allOnes
  all_goals exact and_fieldIf_allOnes ..

/-- The opcode map names a command up to OP 0x12, and the command holds exactly the fields of its row of R71. -/
theorem decodeFields_cases (op : BitVec 5) (ecc : BitVec 3) (ver : BitVec 6) (mode mask : BitVec 4) :
    (op.toNat ≤ 0x12 ∧ ∃ i, decodeFields op ecc ver mode mask = .ok i ∧
      encode i = wordOfFields op ecc ver mode mask &&& readMask i) ∨
    (0x13 ≤ op.toNat ∧ decodeFields op ecc ver mode mask = .error .reservedOpcode) := by
  have hrow {n : Nat} (hop : op.toNat = n) := wordOfFields_and_read hop ecc ver mode mask
  unfold decodeFields
  split <;> rename_i hop
  -- the cases are the opcodes 0x00 to 0x12 in turn, then the reserved ones
  case h_1 | h_2 | h_3 | h_4 | h_5 | h_6 | h_11 | h_14 | h_17 =>
    exact .inl ⟨by omega, _, rfl, hrow hop false false false false⟩
  case h_7 | h_10 => exact .inl ⟨by omega, _, rfl, hrow hop true true true false⟩
  case h_8 => exact .inl ⟨by omega, _, rfl, hrow hop true true false true⟩
  case h_9 => exact .inl ⟨by omega, _, rfl, hrow hop false false true false⟩
  case h_12 => exact .inl ⟨by omega, _, rfl, hrow hop true true false false⟩
  case h_13 => exact .inl ⟨by omega, _, rfl, hrow hop false true false false⟩
  case h_15 => exact .inl ⟨by omega, _, rfl, hrow hop false false false true⟩
  case h_16 | h_18 => exact .inl ⟨by omega, _, rfl, hrow hop true false false true⟩
  case h_19 => exact .inl ⟨by omega, _, rfl, hrow hop true true true true⟩
  case h_20 => exact .inr ⟨by grind, rfl⟩

/-- A word is a command that keeps exactly the bits its row reads, or it is one of the reserved encodings of R72. -/
theorem decodeWord_cases (w : Word) :
    ((w.toNat < 2 ^ 22 ∧ w.toNat % 32 ≤ 0x12) ∧ ∃ i, decodeWord w = .ok i ∧ encode i = w &&& readMask i) ∨
    ((2 ^ 22 ≤ w.toNat ∨ 0x13 ≤ w.toNat % 32) ∧ ∃ e, decodeWord w = .error e) := by
  unfold decodeWord
  split
  · next hrsvd =>
    have hlt := (fieldRsvd_eq_zero_iff w).mp hrsvd
    have hfields := decodeFields_cases (fieldOp w) (fieldEcc w) (fieldVer w) (fieldMode w) (fieldMask w)
    rw [wordOfFields_fields hrsvd, toNat_fieldOp] at hfields
    obtain ⟨hop, hdec⟩ | ⟨hop, herr⟩ := hfields
    · exact .inl ⟨⟨hlt, hop⟩, hdec⟩
    · exact .inr ⟨.inr hop, _, herr⟩
  · next hrsvd => exact .inr ⟨.inl (Nat.le_of_not_lt (mt (fieldRsvd_eq_zero_iff w).mpr hrsvd)), _, rfl⟩

/-- Settles O3: both halves are read off the two cases of a word. -/
theorem decodingReadsExactlyTheReadFields : Obligations.DecodingReadsExactlyTheReadFields := by
  intro w
  obtain ⟨hw, i, hi, hbits⟩ | ⟨hw, e, he⟩ := decodeWord_cases w
  · refine ⟨iff_of_true ⟨i, hi⟩ hw, fun j hj => ?_⟩
    cases hi.symm.trans hj
    exact hbits
  · refine ⟨iff_of_false ?_ (by omega), fun j hj => ?_⟩
    · rintro ⟨j, hj⟩
      cases he.symm.trans hj
    · cases he.symm.trans hj

/-- Settles O4: the decoder evaluated on the eight words. -/
theorem specWordsDecodeToTheirCommands : Obligations.SpecWordsDecodeToTheirCommands :=
  ⟨rfl, rfl, rfl, rfl, rfl, rfl, rfl, rfl⟩

end Sys2Proof
end

section
/-! SUPPORT. What the field codes name (30_encoding.md R64 to R67), and the engine's turn on a word that is a command
and on one that is none (R72, 60_exceptions.md R160). -/

namespace Sys2Proof.Machine

open Sys2Proof.Claims

/-! ## The field codes -/

theorem levelOf_eq_some_iff (ecc : BitVec 3) (e : Level) : levelOf ecc = some e ↔ ecc.toNat = levelCode e := by
  cases e <;> revert ecc <;> decide

theorem versionOf_eq_some_iff (ver : BitVec 6) (v : Nat) : versionOf ver = some v ↔ ver.toNat = v ∧ IsVersion v := by
  simp only [versionOf, Option.ite_none_right_eq_some, Option.some.injEq, IsVersion]
  omega

theorem modeOf_eq_some_iff (mode : BitVec 4) (mo : Mode) : modeOf mode = some mo ↔ mode.toNat = modeCode mo := by
  cases mo <;> revert mode <;> decide

theorem maskOf_eq_some_iff (mask : BitVec 4) (m : Nat) : maskOf mask = some m ↔ mask.toNat = m ∧ m ≤ 7 := by
  simp only [maskOf, Option.ite_none_right_eq_some, Option.some.injEq]
  omega

/-- Settles O5: one equivalence per field. -/
theorem fieldCodesNameTheirValues : Obligations.FieldCodesNameTheirValues :=
  ⟨levelOf_eq_some_iff, ⟨rfl, rfl, rfl, rfl⟩, versionOf_eq_some_iff, modeOf_eq_some_iff, ⟨rfl, rfl, rfl⟩,
    maskOf_eq_some_iff⟩

/-! ## The engine's turn on the word in flight -/

theorem step_no_turn {s : State} (h : s.turns = []) : step s = s.engineTurn := by
  simp [step, State.advance, h]

theorem step_engine {s : State} {rest : List Turn} (h : s.turns = .engine :: rest) :
    step s = ({ s with turns := rest } : State).engineTurn := by
  simp [step, State.advance, h, State.takeTurn]

theorem State.engineTurn_command {s : State} (h : Running s) {i : Instr} (hi : decodeWord s.cmd = .ok i) :
    s.engineTurn = exec i s := by
  obtain ⟨hbusy, hreset⟩ := h
  simp [State.engineTurn, hbusy, hreset, hi]

theorem State.engineTurn_reserved {s : State} (h : Running s) {e : DecodeError} (he : decodeWord s.cmd = .error e) :
    s.engineTurn = .next (s.raise .illegalCommand) := by
  obtain ⟨hbusy, hreset⟩ := h
  simp [State.engineTurn, hbusy, hreset, he]

/-- Settles O14: a reserved word decodes to no command. -/
theorem reservedWordsCompleteWithIllegalCommand : Obligations.ReservedWordsCompleteWithIllegalCommand := by
  intro s rest h hturns hw
  obtain ⟨hcmd, -⟩ | ⟨-, e, he⟩ := decodeWord_cases s.cmd
  · omega
  · exact (step_engine hturns).trans (State.engineTurn_reserved (s := { s with turns := rest }) h he)

/-- Settles O6: in every clause the step is the engine's turn, and the word in flight decodes to the command. -/
theorem stepRunsTheDecodedCommand : Obligations.StepRunsTheDecodedCommand := by
  refine ⟨fun s i rest h hbytes => ?_, fun s w i hw => ?_⟩
  · have hi := decodeWord_of_decodeBytes hbytes
    exact ⟨fun hturns => (step_no_turn hturns).trans (State.engineTurn_command h hi), fun hturns =>
      (step_engine hturns).trans (State.engineTurn_command (s := { s with turns := rest }) h hi)⟩
  · have hi := decodeWord_of_decodeTableWord hw
    rw [tableWord_32] at hi
    rw [State.withFetchWord, tableWord_32]
    exact (step_engine rfl).trans
      (State.engineTurn_command (s := { s.accept (BitVec.ofNat 32 w) with inReset := false }) ⟨rfl, rfl⟩ hi)

end Sys2Proof.Machine
end

section
/-! SUPPORT. The lazy build of the GF tables (40_gf_tables.md R82): which commands build them, and that nothing
else touches them. -/

namespace Sys2Proof.Machine

open Sys2Proof.Claims

/-! ## What keeps the tables -/

/-- No access of the host touches the tables (R45, R51). -/
@[simp] theorem State.hostAccess_tables (s : State) (x : Access) : (s.hostAccess x).tables = s.tables := by
  cases x with
  | read off width =>
    obtain ⟨r, n, b, hread⟩ := s.hostRead_frame off.toNat width
    rw [State.hostAccess, hread]
  | write off width w =>
    obtain ⟨-, -, -, -, hw⟩ | ⟨n, hw⟩ | ⟨-, hw⟩ := s.hostWrite_cases off.toNat width w
    · rw [State.hostAccess, hw]
      rfl
    · rw [State.hostAccess, hw]
    · rw [State.hostAccess, hw]

/-- A mask selection touches no table (R143, R144). -/
theorem State.selectMask_tables (s : State) (e : Level) (c : Choice Nat) : (s.selectMask e c).tables = s.tables := by
  obtain ⟨m, p, b, x, y, n, hselect, -⟩ := s.selectMask_frame e c
  rw [hselect]

/-- The effect of a command that reads no table leaves the tables as they are. -/
theorem State.Effect.tables_of_not_builds {s u : State} {i : Instr} (he : s.Effect i u)
    (hi : buildsTables i = false) : u.tables = s.tables := by
  cases he with
  | tblinit | gfmul | gfexp | gflog | genrd | rsrem | augment | generate => simp [buildsTables] at hi
  | select e c => exact s.selectMask_tables e c
  | _ => rfl

/-! ## What builds them -/

theorem State.TablesInv.needTables_tables {s : State} (h : s.TablesInv) : s.needTables.tables = some builtTables :=
  congrArg some h.gf_eq

/-- The pipeline builds the tables first and its other parts keep them (R151). -/
theorem State.generateInto_tables (s : State) (v : Nat) (e : Level) (mo : Mode) (data : List Byte) (c : Choice Nat) :
    (s.generateInto v e mo data c).tables = s.needTables.tables := by
  rw [State.generateInto, State.selectMask_tables]
  rfl

/-- A command ends with an error code, or with the tables built and then completion. -/
inductive FailsOrBuilds : Host.Outcome State Fault Refusal → Prop where
  | fails (s : State) {e : ErrCode} (he : e ≠ .ok) : FailsOrBuilds (.next (s.raise e))
  | builds {u : State} (hu : u.tables = some builtTables) : FailsOrBuilds (.next u.finish)

theorem resolveVersion_ne_ok {ver : BitVec 6} {len : Nat} {mo : Mode} {e : Level} {err : ErrCode}
    (h : resolveVersion ver len mo e = .error err) : err ≠ .ok := by
  unfold resolveVersion at h
  split at h
  · cases h
    decide
  · split at h
    · cases h
      decide
    · cases h
  · split at h
    · cases h
      decide
    · cases h

theorem execGenerate_failsOrBuilds {s : State} (h : s.TablesInv) (ecc : BitVec 3) (ver : BitVec 6)
    (mode mask : BitVec 4) : FailsOrBuilds (execGenerate ecc ver mode mask s) := by
  unfold execGenerate
  split
  · exact .fails _ (by decide)
  split
  · exact .fails _ (by decide)
  dsimp only
  split
  · exact .fails _ (by decide)
  split
  · exact .fails _ (by decide)
  split
  · next herr => exact .fails _ (resolveVersion_ne_ok herr)
  split
  · exact .fails _ (by decide)
  · exact .builds ((State.generateInto_tables _ _ _ _ _ _).trans
      (State.TablesInv.needTables_tables (s := s.drew s.len.toNat) h))

/-- Every command that reads the tables has them built unless a check fails (R82). -/
theorem exec_failsOrBuilds {s : State} (h : s.TablesInv) {i : Instr} (hi : buildsTables i = true) :
    FailsOrBuilds (exec i s) := by
  have hbuilt := h.needTables_tables
  cases i with
  | tblinit => exact .builds rfl
  | gfmul =>
    simp only [exec, execGfmul]
    split
    · exact .builds hbuilt
    · exact .fails _ (by decide)
  | gfexp =>
    simp only [exec, execGfexp]
    split
    · exact .builds hbuilt
    · exact .fails _ (by decide)
  | gflog =>
    simp only [exec, execGflog]
    split
    · exact .builds hbuilt
    · exact .fails _ (by decide)
  | genrd =>
    simp only [exec, execGenrd]
    split
    · exact .builds hbuilt
    · exact .fails _ (by decide)
  | rsrem =>
    simp only [exec, execRsrem]
    split
    · exact .builds hbuilt
    · exact .fails _ (by decide)
  | augment ecc ver =>
    simp only [exec, execAugment]
    split
    · exact .fails _ (by decide)
    split
    · exact .fails _ (by decide)
    · exact .builds hbuilt
  | generate ecc ver mode mask => exact execGenerate_failsOrBuilds h ecc ver mode mask
  | _ => cases hi

/-- Settles O32: a reading command that completes without error has built the tables; an error and the effect of
any other command keep them, and so does every host access. -/
theorem tablesAreBuiltLazilyAndKept : Obligations.TablesAreBuiltLazilyAndKept := by
  refine ⟨fun i s t h ht => ?_, fun s t x ht => ht ▸ s.hostAccess_tables x⟩
  split
  · next hbuilds =>
    obtain ⟨hi, hok⟩ := hbuilds
    have hends := exec_failsOrBuilds h hi
    rw [ht] at hends
    cases hends with
    | fails _ he => exact absurd hok he
    | builds hu => exact hu
  · next hkeeps =>
    obtain ⟨n, e, rfl⟩ | ⟨u, hu, rfl⟩ := exec_cases ht
    · rfl
    · exact hu.tables_of_not_builds (by simpa using hkeeps)

end Sys2Proof.Machine
end

section
/-! SUPPORT. The field of the tables (40_gf_tables.md R75, R78): multiplication by x is additive, every nonzero
byte is a power of alpha, and the product through the tables is the product by shift and add. -/

namespace Sys2Proof.Machine

open Sys2Proof.Claims

/-! ## Multiplication by x -/

/-- A byte taken where a bit is set is additive in the bit. -/
theorem ite_xor (p q : Bool) (x : Byte) :
    (if p ^^ q then x else 0#8) = (if p then x else 0#8) ^^^ if q then x else 0#8 := by
  cases p <;> cases q <;> simp

theorem timesX_eq (a : Byte) : timesX a = a <<< 1 ^^^ if a.getLsbD 7 then 0x1D else 0#8 := by
  unfold timesX
  split
  · rfl
  · exact BitVec.xor_zero.symm

theorem timesX_xor (a b : Byte) : timesX (a ^^^ b) = timesX a ^^^ timesX b := by
  simp only [timesX_eq, BitVec.getLsbD_xor, BitVec.shiftLeft_xor_distrib, ite_xor]
  ac_rfl

/-- Multiplication by a power of x is additive. -/
theorem iterate_timesX_xor (n : Nat) (a b : Byte) : timesX^[n] (a ^^^ b) = timesX^[n] a ^^^ timesX^[n] b :=
  Function.Semiconj₂.iterate timesX_xor n a b

@[simp] theorem timesX_zero : timesX 0#8 = 0#8 := rfl

@[simp] theorem iterate_timesX_zero (n : Nat) : timesX^[n] 0#8 = 0#8 := Function.iterate_fixed timesX_zero n

theorem iterate_iterate_timesX (m n : Nat) (a : Byte) : timesX^[m] (timesX^[n] a) = timesX^[m + n] a :=
  (Function.iterate_add_apply timesX m n a).symm

theorem iterate_timesX_alphaPow (m n : Nat) : timesX^[m] (alphaPow n) = alphaPow (m + n) :=
  iterate_iterate_timesX m n 1

/-- Exponents count modulo 255 (R75). -/
theorem alphaPow_mod (n : Nat) : alphaPow (n % 255) = alphaPow n :=
  Function.IsPeriodicPt.iterate_mod_apply alphaPow_255 n

theorem alphaPow_eq_iff {m n : Nat} : alphaPow m = alphaPow n ↔ m % 255 = n % 255 := by
  rw [← alphaPow_mod m, ← alphaPow_mod n]
  exact alphaPow_inj (Nat.mod_lt _ (by decide)) (Nat.mod_lt _ (by decide))

/-- The 255 powers of alpha are all the nonzero bytes (R76). -/
theorem exists_alphaPow {a : Byte} (h : a ≠ 0) : ∃ i < 255, alphaPow i = a := by
  have hsub : (Finset.range 255).image alphaPow ⊆ Finset.univ.erase 0 := fun x hx => by
    obtain ⟨i, hi, rfl⟩ := Finset.mem_image.mp hx
    exact Finset.mem_erase.mpr ⟨alphaPow_ne_zero (Finset.mem_range.mp hi).le, Finset.mem_univ _⟩
  have hinj : Set.InjOn alphaPow (Finset.range 255) := fun i hi j hj =>
    (alphaPow_inj (Finset.mem_range.mp hi) (Finset.mem_range.mp hj)).mp
  have hcard : (Finset.univ.erase (0 : Byte)).card ≤ ((Finset.range 255).image alphaPow).card := by
    have hbytes : Fintype.card Byte = 256 :=
      (Fintype.card_congr (BitVec.equivFin (m := 8)).toEquiv).trans (Fintype.card_fin _)
    rw [Finset.card_image_of_injOn hinj, Finset.card_erase_of_mem (Finset.mem_univ _), Finset.card_univ, hbytes,
      Finset.card_range]
  have hall := Finset.eq_of_subset_of_card_le hsub hcard
  have ha : a ∈ (Finset.range 255).image alphaPow := hall ▸ Finset.mem_erase.mpr ⟨h, Finset.mem_univ _⟩
  obtain ⟨i, hi, hpow⟩ := Finset.mem_image.mp ha
  exact ⟨i, Finset.mem_range.mp hi, hpow⟩

/-- Different powers of x, less than 255 apart, move a nonzero byte to different places. -/
theorem iterate_timesX_ne {m n : Nat} (hmn : m < n) (hn : n < m + 255) {a : Byte} (ha : a ≠ 0) :
    timesX^[m] a ≠ timesX^[n] a := by
  obtain ⟨i, -, rfl⟩ := exists_alphaPow ha
  rw [iterate_timesX_alphaPow, iterate_timesX_alphaPow, ne_eq, alphaPow_eq_iff]
  omega

/-! ## The product by shift and add -/

/-- The shift-and-add sum over the `n` low bits of `b`; `fieldProduct` takes all eight. -/
def shiftAndAdd (n : Nat) (a b : Byte) : Byte :=
  (List.range n).foldl (fun acc i => if b.getLsbD i then acc ^^^ timesX^[i] a else acc) 0

theorem shiftAndAdd_succ (n : Nat) (a b : Byte) :
    shiftAndAdd (n + 1) a b = shiftAndAdd n a b ^^^ if b.getLsbD n then timesX^[n] a else 0#8 := by
  rw [shiftAndAdd, List.range_succ, List.foldl_append]
  cases h : b.getLsbD n <;> simp [shiftAndAdd, h]

theorem shiftAndAdd_xor (n : Nat) (a b c : Byte) :
    shiftAndAdd n a (b ^^^ c) = shiftAndAdd n a b ^^^ shiftAndAdd n a c := by
  induction n with
  | zero => exact BitVec.xor_zero.symm
  | succ n ih =>
    simp only [shiftAndAdd_succ, ih, BitVec.getLsbD_xor, ite_xor]
    ac_rfl

/-- Shifting the bits of `b` up by one multiplies the sum by x. -/
theorem shiftAndAdd_shiftLeft (n : Nat) (hn : n < 8) (a b : Byte) :
    shiftAndAdd (n + 1) a (b <<< 1) = timesX (shiftAndAdd n a b) := by
  induction n with
  | zero => simp [shiftAndAdd, timesX]
  | succ n ih =>
    have hbit : (b <<< 1).getLsbD (n + 1) = b.getLsbD n := by
      simp [hn, BitVec.getLsbD_eq_getElem (show n < 8 by omega)]
    rw [shiftAndAdd_succ, ih (by omega), shiftAndAdd_succ n, timesX_xor, hbit, apply_ite timesX,
      ← Function.iterate_succ_apply' timesX, timesX_zero]

/-- The field polynomial: x^8 is x^4+x^3+x^2+1 (R75). -/
theorem fieldProduct_reduction (a : Byte) : fieldProduct a 0x1D = timesX^[8] a := by
  revert a
  decide +kernel

@[simp] theorem fieldProduct_zero (a : Byte) : fieldProduct a 0#8 = 0#8 := rfl

theorem fieldProduct_xor (a b c : Byte) : fieldProduct a (b ^^^ c) = fieldProduct a b ^^^ fieldProduct a c :=
  shiftAndAdd_xor 8 a b c

theorem fieldProduct_timesX (a b : Byte) : fieldProduct a (timesX b) = timesX (fieldProduct a b) := by
  have hshift : fieldProduct a (b <<< 1) = timesX (shiftAndAdd 7 a b) := shiftAndAdd_shiftLeft 7 (by decide) a b
  have htop : fieldProduct a b = shiftAndAdd 7 a b ^^^ if b.getLsbD 7 then timesX^[7] a else 0#8 :=
    shiftAndAdd_succ 7 a b
  rw [htop, timesX_xor, ← hshift, apply_ite timesX, ← Function.iterate_succ_apply' timesX, timesX_eq b,
    fieldProduct_xor, apply_ite (fieldProduct a), fieldProduct_reduction, fieldProduct_zero, timesX_zero]

/-- The product with a power of alpha is a repeated multiplication by x. -/
theorem fieldProduct_alphaPow (a : Byte) (n : Nat) : fieldProduct a (alphaPow n) = timesX^[n] a := by
  induction n with
  | zero => simp [fieldProduct, alphaPow, List.range_succ]
  | succ n ih => rw [alphaPow, Function.iterate_succ_apply', Function.iterate_succ_apply', fieldProduct_timesX,
      ← alphaPow, ih]

@[simp] theorem zero_fieldProduct (b : Byte) : fieldProduct 0#8 b = 0#8 := by
  by_cases hb : b = 0#8
  · rw [hb, fieldProduct_zero]
  · obtain ⟨n, -, rfl⟩ := exists_alphaPow hb
    rw [fieldProduct_alphaPow, iterate_timesX_zero]

/-! ## The tables as power and exponent -/

section

variable {t : GfTables}

theorem GfTables.expAt_eq_alphaPow (hexp : t.exp = expTable) {i : Nat} (h : i < 255) : t.expAt i = alphaPow i := by
  rw [GfTables.expAt, hexp, getD_expTable h]

theorem GfTables.logAt_alphaPow (hlog : t.log = logTable) {i : Nat} (h : i < 255) :
    t.logAt (alphaPow i) = BitVec.ofNat 8 i := by
  rw [GfTables.logAt, hlog, getD_logTable_alphaPow h]

/-- LOG[0] is the sentinel (R77). -/
theorem GfTables.logAt_zero (hlog : t.log = logTable) : t.logAt 0 = 0xFF := by
  rw [GfTables.logAt, hlog, getD_logTable, if_pos rfl]

theorem GfTables.toNat_logAt_alphaPow (hlog : t.log = logTable) {i : Nat} (h : i < 255) :
    (t.logAt (alphaPow i)).toNat = i := by
  rw [GfTables.logAt_alphaPow hlog h, BitVec.toNat_ofNat]
  omega

/-- LOG gives the exponent of a nonzero byte, which is not the sentinel (R77). -/
theorem GfTables.toNat_logAt_lt (hlog : t.log = logTable) {a : Byte} (ha : a ≠ 0) : (t.logAt a).toNat < 255 := by
  obtain ⟨i, hi, rfl⟩ := exists_alphaPow ha
  rwa [GfTables.toNat_logAt_alphaPow hlog hi]

theorem GfTables.alphaPow_logAt (hlog : t.log = logTable) {a : Byte} (ha : a ≠ 0) : alphaPow (t.logAt a).toNat = a := by
  obtain ⟨i, hi, rfl⟩ := exists_alphaPow ha
  rw [GfTables.toNat_logAt_alphaPow hlog hi]

/-- EXP undoes LOG on the nonzero bytes (R77). -/
theorem GfTables.expAt_logAt (hexp : t.exp = expTable) (hlog : t.log = logTable) {a : Byte} (ha : a ≠ 0) :
    t.expAt (t.logAt a).toNat = a := by
  rw [GfTables.expAt_eq_alphaPow hexp (GfTables.toNat_logAt_lt hlog ha), GfTables.alphaPow_logAt hlog ha]

/-- The product through the tables is the product of the field (R75, R78). -/
theorem GfTables.mul_eq_fieldProduct (hexp : t.exp = expTable) (hlog : t.log = logTable) (a b : Byte) :
    t.mul a b = fieldProduct a b := by
  unfold GfTables.mul
  split
  · next hzero =>
    obtain rfl | rfl := hzero
    · exact (zero_fieldProduct b).symm
    · exact (fieldProduct_zero a).symm
  · next hne =>
    obtain ⟨ha, hb⟩ := not_or.mp hne
    obtain ⟨i, hi, rfl⟩ := exists_alphaPow ha
    obtain ⟨j, hj, rfl⟩ := exists_alphaPow hb
    rw [GfTables.toNat_logAt_alphaPow hlog hi, GfTables.toNat_logAt_alphaPow hlog hj,
      GfTables.expAt_eq_alphaPow hexp (Nat.mod_lt _ (by decide)), alphaPow_mod, fieldProduct_alphaPow,
      iterate_timesX_alphaPow, Nat.add_comm]

end

/-! ## GFMUL, GFEXP and GFLOG -/

/-- Settles O35: with byte operands the tables give the product of the field. -/
theorem gfmulGivesTheFieldProduct : Obligations.GfmulGivesTheFieldProduct := by
  intro s h
  refine ⟨fun ha hb => ?_, fun hrange => ?_⟩
  · rw [exec, execGfmul, if_pos ⟨ha, hb⟩, State.needTables, h.gf_eq, GfTables.mul_eq_fieldProduct rfl rfl]
    rfl
  · rw [exec, execGfmul, if_neg (by omega)]
    rfl

/-- Settles O36: EXP holds the powers, and LOG of a nonzero byte the exponent of which it is the power. -/
theorem gfexpAndGflogAreInverse : Obligations.GfexpAndGflogAreInverse := by
  intro s h
  refine ⟨fun ha => ?_, fun ha => ⟨builtTables.logAt (s.argA.setWidth 8), ?_, fun hzero => ?_, fun hne => ?_⟩,
    fun ha => ?_, fun ha => ?_⟩
  · rw [exec, execGfexp, if_pos ha, State.needTables, h.gf_eq, GfTables.expAt_eq_alphaPow rfl (by omega)]
    rfl
  · rw [exec, execGflog, if_pos ha, State.needTables, h.gf_eq]
    rfl
  · rw [hzero]
    exact GfTables.logAt_zero rfl
  · have hbyte : s.argA.setWidth 8 ≠ 0 := fun hz => hne (by bv_omega)
    exact ⟨Nat.le_of_lt_succ (GfTables.toNat_logAt_lt rfl hbyte), GfTables.alphaPow_logAt rfl hbyte⟩
  · rw [exec, execGfexp, if_neg (by omega)]
    rfl
  · rw [exec, execGflog, if_neg (by omega)]
    rfl

end Sys2Proof.Machine
end

section
/-! SUPPORT. The generators (40_gf_tables.md R79, R80): the coefficients of (x+1)(x+α)...(x+α^(K-1)) by the
recursion of the construction, none of them 0, and the roots. -/

namespace Sys2Proof.Machine

open Sys2Proof.Claims

/-! ## The coefficients -/

/-- The coefficient of x^(k-j) in (x+1)(x+α)...(x+α^(k-1)), 0 for j above k. -/
def genCoef : Nat → Nat → Byte
  | _, 0 => 1
  | 0, _ + 1 => 0
  | k + 1, j + 1 => genCoef k (j + 1) ^^^ timesX^[k] (genCoef k j)

@[simp] theorem genCoef_zero_right (k : Nat) : genCoef k 0 = 1 := by cases k <;> rfl

@[simp] theorem genCoef_zero_succ (j : Nat) : genCoef 0 (j + 1) = 0#8 := rfl

theorem genCoef_succ_succ (k j : Nat) :
    genCoef (k + 1) (j + 1) = genCoef k (j + 1) ^^^ timesX^[k] (genCoef k j) := rfl

theorem genCoef_of_lt {k j : Nat} (h : k < j) : genCoef k j = 0#8 := by
  induction k generalizing j with
  | zero =>
    obtain ⟨j, rfl⟩ := Nat.exists_eq_succ_of_ne_zero h.ne'
    rfl
  | succ k ih =>
    obtain ⟨j, rfl⟩ := Nat.exists_eq_succ_of_ne_zero (Nat.ne_of_gt (Nat.zero_lt_of_lt h))
    rw [Nat.succ_eq_add_one, genCoef_succ_succ, ih (by omega), ih (by omega), iterate_timesX_zero, BitVec.xor_zero]

/-- The second recursion of the coefficients: like Gaussian binomials they have two. -/
theorem genCoef_succ_succ' (k j : Nat) :
    genCoef (k + 1) (j + 1) = timesX^[j + 1] (genCoef k (j + 1)) ^^^ timesX^[j] (genCoef k j) := by
  induction k generalizing j with
  | zero => cases j <;> simp [genCoef_succ_succ]
  | succ k ih =>
    cases j with
    | zero =>
      calc genCoef (k + 1 + 1) 1
        _ = (timesX^[1] (genCoef k 1) ^^^ 1) ^^^ timesX^[k + 1] 1 := by
          rw [genCoef_succ_succ, ih, genCoef_zero_right, genCoef_zero_right, Function.iterate_zero_apply]
        _ = timesX^[1] (genCoef k 1 ^^^ timesX^[k] 1) ^^^ 1 := by
          rw [iterate_timesX_xor, iterate_iterate_timesX]
          ac_rfl
        _ = timesX^[1] (genCoef (k + 1) 1) ^^^ timesX^[0] (genCoef (k + 1) 0) := by
          rw [genCoef_succ_succ, genCoef_zero_right, genCoef_zero_right, Function.iterate_zero_apply]
    | succ j =>
      calc genCoef (k + 1 + 1) (j + 1 + 1)
        _ = (timesX^[j + 1 + 1] (genCoef k (j + 1 + 1)) ^^^ timesX^[j + 1] (genCoef k (j + 1))) ^^^
              timesX^[k + 1] (timesX^[j + 1] (genCoef k (j + 1)) ^^^ timesX^[j] (genCoef k j)) := by
          rw [genCoef_succ_succ, ih (j + 1), ih j]
        _ = timesX^[j + 1 + 1] (genCoef k (j + 1 + 1) ^^^ timesX^[k] (genCoef k (j + 1))) ^^^
              timesX^[j + 1] (genCoef k (j + 1) ^^^ timesX^[k] (genCoef k j)) := by
          simp only [iterate_timesX_xor, iterate_iterate_timesX]
          ac_rfl
        _ = timesX^[j + 1 + 1] (genCoef (k + 1) (j + 1 + 1)) ^^^ timesX^[j + 1] (genCoef (k + 1) (j + 1)) := by
          rw [genCoef_succ_succ, genCoef_succ_succ]

/-- No coefficient is 0: if the next one were, the two recursions would give α^k and α^j times this one, which
differ as long as j < k < 255. -/
theorem genCoef_ne_zero {k j : Nat} (hk : k < 255) (hj : j ≤ k) : genCoef k j ≠ 0#8 := by
  induction j with
  | zero =>
    rw [genCoef_zero_right]
    decide
  | succ j ih =>
    intro hzero
    have hpascal := genCoef_succ_succ k j
    rw [genCoef_succ_succ', hzero, iterate_timesX_zero, BitVec.zero_xor, BitVec.zero_xor] at hpascal
    exact iterate_timesX_ne (by omega : j < k) (by omega) (ih (by omega)) hpascal

/-! ## The roots -/

/-- The value at α^i of the polynomial with the first `n` coefficients `c`, highest degree first. -/
def leadingValue (c : Nat → Byte) (i n : Nat) : Byte := polyAt ((List.range n).map c) (alphaPow i)

theorem leadingValue_succ (c : Nat → Byte) (i n : Nat) :
    leadingValue c i (n + 1) = timesX^[i] (leadingValue c i n) ^^^ c n := by
  simp [leadingValue, polyAt, List.range_succ, fieldProduct_alphaPow]

/-- Multiplication by (x + α^k), on the leading coefficients. -/
theorem leadingValue_genCoef_succ (k i n : Nat) :
    leadingValue (genCoef (k + 1)) i (n + 1) =
      leadingValue (genCoef k) i (n + 1) ^^^ timesX^[k] (leadingValue (genCoef k) i n) := by
  induction n with
  | zero => simp [leadingValue, polyAt]
  | succ n ih =>
    have hshift : timesX^[k] (leadingValue (genCoef k) i (n + 1)) =
        timesX^[i] (timesX^[k] (leadingValue (genCoef k) i n)) ^^^ timesX^[k] (genCoef k n) := by
      rw [leadingValue_succ, iterate_timesX_xor, iterate_iterate_timesX, iterate_iterate_timesX, Nat.add_comm]
    rw [leadingValue_succ, ih, hshift, leadingValue_succ (genCoef k) i (n + 1), genCoef_succ_succ, iterate_timesX_xor]
    ac_rfl

/-- α^i is a root of the generator of each degree above i (R79). -/
theorem leadingValue_genCoef_eq_zero {k i : Nat} (h : i < k) : leadingValue (genCoef k) i (k + 1) = 0#8 := by
  induction k with
  | zero => omega
  | succ k ih =>
    rw [leadingValue_genCoef_succ, leadingValue_succ, genCoef_of_lt (Nat.lt_succ_self k), BitVec.xor_zero]
    obtain hik | rfl := Nat.lt_succ_iff_lt_or_eq.mp h
    · rw [ih hik, iterate_timesX_zero, iterate_timesX_zero, BitVec.xor_zero]
    · exact BitVec.xor_self

/-! ## The table of generators -/

/-- GEN[K] in exponent form, by the table LOG of `t`. -/
def genExponents (t : GfTables) (k : Nat) : List Byte := (List.range k).map fun j => t.logAt (genCoef k (j + 1))

theorem getD_genExponents (t : GfTables) {k j : Nat} (h : j < k) (d : Byte) :
    (genExponents t k).getD j d = t.logAt (genCoef k (j + 1)) := by
  simp [genExponents, List.getD_eq_getElem?_getD, List.getElem?_range h]

/-- One step of the construction multiplies by (x + α^k) (R80). -/
theorem genStep_genExponents {t : GfTables} (hexp : t.exp = expTable) (hlog : t.log = logTable) {k : Nat}
    (hk : k < 255) : genStep t (k + 1) (genExponents t k) = genExponents t (k + 1) := by
  refine List.map_congr_left fun j hj => congrArg t.logAt (congrArg₂ (· ^^^ ·) ?_ ?_)
  · split
    · next hlt =>
      have hjk : j < k := hlt
      rw [getD_genExponents t hjk, GfTables.expAt_logAt hexp hlog (genCoef_ne_zero hk hlt)]
    · next hge => exact (genCoef_of_lt (by omega)).symm
  · have hjk : j ≤ k := Nat.lt_succ_iff.mp (List.mem_range.mp hj)
    have hexponent : (if j = 0 then 0 else ((genExponents t k).getD (j - 1) 0).toNat) =
        (t.logAt (genCoef k j)).toNat := by
      cases j with
      | zero =>
        rw [if_pos rfl, genCoef_zero_right]
        exact (GfTables.toNat_logAt_alphaPow (i := 0) hlog (by decide)).symm
      | succ j => rw [if_neg (by omega), Nat.add_sub_cancel, getD_genExponents t hjk]
    rw [hexponent, GfTables.expAt_eq_alphaPow hexp (Nat.mod_lt _ (by decide)), alphaPow_mod,
      ← iterate_timesX_alphaPow, GfTables.alphaPow_logAt hlog (genCoef_ne_zero hk hjk), Nat.add_sub_cancel]

/-- A list that every step of the construction leads on to the next is the table from there. -/
theorem getD_genFrom {t : GfTables} {g : Nat → List Byte} {n k i : Nat}
    (hstep : ∀ m < k + n, genStep t (m + 1) (g m) = g (m + 1)) (hi : i < n) :
    (genFrom t n (k + 1) (g k)).getD i [] = g (k + 1 + i) := by
  induction n generalizing k i with
  | zero => omega
  | succ n ih =>
    rw [genFrom, hstep k (by omega)]
    cases i with
    | zero => rfl
    | succ i =>
      rw [List.getD_cons_succ, ih (fun m hm => hstep m (by omega)) (by omega)]
      congr 1
      omega

theorem genAt_builtTables {k : Nat} (hk : k ≤ 30) : builtTables.genAt k = genExponents builtTables k := by
  cases k with
  | zero => rfl
  | succ k =>
    have hgen := getD_genFrom (t := { exp := expTable, log := logTable, gen := [] }) (g := genExponents builtTables)
      (n := 30) (k := 0) (i := k) (fun m hm => genStep_genExponents (t := builtTables) rfl rfl (by omega)) hk
    rw [GfTables.genAt, builtTables, List.getD_cons_succ, Nat.add_comm k]
    exact hgen

theorem generatorCoefs_eq {k : Nat} (hk : k ≤ 30) :
    generatorCoefs k = (List.range k).map fun j => genCoef k (j + 1) := by
  rw [generatorCoefs, genAt_builtTables hk, genExponents, List.map_map]
  refine List.map_congr_left fun j hj => ?_
  have hj := List.mem_range.mp hj
  exact GfTables.alphaPow_logAt rfl (genCoef_ne_zero (by omega) (by omega))

/-- Settles O34: the tables are the powers, their exponents, and the generators with the roots. -/
theorem tablesHoldPowersLogsAndGenerators : Obligations.TablesHoldPowersLogsAndGenerators := by
  refine ⟨?_, ?_, fun i hi => ⟨GfTables.logAt_alphaPow rfl hi, alphaPow_ne_zero hi.le⟩, GfTables.logAt_zero rfl, rfl,
    fun k _ hk => ⟨?_, fun x hx => ?_, fun i hi => ?_⟩⟩
  · refine List.ext_getElem (by simp [builtTables]) fun i hi _ => ?_
    exact (getElem_expTable hi).trans (by simp)
  · simp [builtTables, logTable]
  · rw [length_genAt_builtTables, if_pos hk]
  · rw [genAt_builtTables hk] at hx
    obtain ⟨j, hj, rfl⟩ := List.mem_map.mp hx
    have hj := List.mem_range.mp hj
    exact Nat.le_of_lt_succ (GfTables.toNat_logAt_lt rfl (genCoef_ne_zero (by omega) (by omega)))
  · have hcoefs : 1 :: generatorCoefs k = (List.range (k + 1)).map (genCoef k) := by
      rw [generatorCoefs_eq hk, List.range_succ_eq_map, List.map_cons, genCoef_zero_right, List.map_map]
      rfl
    rw [hcoefs]
    exact leadingValue_genCoef_eq_zero hi

/-! ## GENRD -/

/-- EXP of an entry of a generator is its coefficient as a field element. -/
theorem expAt_genAt_builtTables {k j : Nat} (hk : k ≤ 30) (hj : j < k) :
    builtTables.expAt ((builtTables.genAt k).getD j 0).toNat = (generatorCoefs k).getD j 0 := by
  rw [genAt_builtTables hk, getD_genExponents _ hj,
    GfTables.expAt_logAt rfl rfl (genCoef_ne_zero (by omega) hj), generatorCoefs_eq hk]
  simp [List.getD_eq_getElem?_getD, List.getElem?_range hj]

/-- Settles O37: an entry of a generator is the exponent of its coefficient. -/
theorem genrdGivesTheCoefficient : Obligations.GenrdGivesTheCoefficient := by
  intro s h
  refine ⟨fun h1 h30 hlt => ?_, fun hrange => ?_⟩
  · rw [exec, execGenrd, if_pos ⟨h1, h30, hlt⟩, State.needTables, h.gf_eq]
    dsimp only
    rw [expAt_genAt_builtTables h30 hlt]
    rfl
  · rw [exec, execGenrd, if_neg (by omega)]
    rfl

end Sys2Proof.Machine
end

section
/-! SUPPORT. The figures of the capacity unit (41_capacity.md): the model's figures are the printed ones, and the
greatest data length is the last whose stream fits (R96, R113). -/

namespace Sys2Proof.Machine

open Sys2Proof.Claims

/-! ## The field codes that name nothing -/

theorem levelOf_eq_none_iff (ecc : BitVec 3) : levelOf ecc = none ↔ 3 < ecc.toNat := by
  revert ecc
  decide

theorem versionOf_eq_none_iff (ver : BitVec 6) : versionOf ver = none ↔ ¬ IsVersion ver.toNat := by
  simp [versionOf, IsVersion]

theorem modeOf_eq_none_iff (mode : BitVec 4) :
    modeOf mode = none ↔ mode.toNat ≠ 1 ∧ mode.toNat ≠ 2 ∧ mode.toNat ≠ 4 := by
  revert mode
  decide

theorem maskOf_eq_none_iff (mask : BitVec 4) : maskOf mask = none ↔ 7 < mask.toNat := by
  simp [maskOf]

theorem versionOf_eq_toNat {ver : BitVec 6} (h : IsVersion ver.toNat) : versionOf ver = some ver.toNat :=
  (versionOf_eq_some_iff ver _).mpr ⟨rfl, h⟩

theorem maskOf_eq_toNat {mask : BitVec 4} (h : mask.toNat ≤ 7) : maskOf mask = some mask.toNat :=
  (maskOf_eq_some_iff mask _).mpr ⟨rfl, h⟩

theorem exists_levelOf {ecc : BitVec 3} (h : ecc.toNat ≤ 3) : ∃ e, levelOf ecc = some e :=
  Option.ne_none_iff_exists'.mp fun hnone => absurd ((levelOf_eq_none_iff ecc).mp hnone) (by omega)

theorem exists_modeOf {mode : BitVec 4} (h : mode.toNat = 1 ∨ mode.toNat = 2 ∨ mode.toNat = 4) :
    ∃ mo, modeOf mode = some mo :=
  Option.ne_none_iff_exists'.mp fun hnone => absurd ((modeOf_eq_none_iff mode).mp hnone) (by omega)

/-! ## The printed tables -/

/-- Reading a table of the consecutive numbers from `a` on. -/
theorem getD_map_range' {α : Type} (f : Nat → α) {a n v : Nat} (hv : a ≤ v ∧ v < a + n) (d : α) :
    ((List.range' a n).map f).getD (v - a) d = f v := by
  rw [List.getD_eq_getElem?_getD, List.getElem?_map, List.getElem?_range' (by omega), Nat.one_mul,
    Nat.add_sub_cancel' hv.1]
  rfl

theorem getD_map_versions {α : Type} (f : Nat → α) {v : Nat} (hv : IsVersion v) (d : α) :
    ((List.range' 1 40).map f).getD (v - 1) d = f v := by
  unfold IsVersion at hv
  exact getD_map_range' f (by omega) d

/-- A figure of every level, in the column order M, L, H, Q of the printed tables (R89, R94). -/
def levelColumns (f : Level → Nat) : List Nat := [f .m, f .l, f .h, f .q]

/-- R94's table holds the counts of R91 to R93. -/
theorem capacityTable_eq : capacityTable = (List.range' 1 40).map fun v =>
    rawModules v :: totalDataBits v :: levelColumns (dataCodewords v) := by
  decide +kernel

/-- The printed columns of R89 are those of VROM. -/
theorem eccTable_eq : eccTable = (List.range' 1 40).map fun v =>
    levelColumns (blockDegree v) ++ levelColumns (blockCount v) := by
  decide +kernel

theorem alignTable_eq : alignTable = (List.range' 1 40).map alignPositions := by
  decide +kernel

section

variable {v : Nat} (hv : IsVersion v)
include hv

theorem tableEntry_capacityTable_zero : tableEntry capacityTable v 0 = rawModules v := by
  rw [tableEntry, capacityTable_eq, getD_map_versions _ hv]
  rfl

theorem tableEntry_capacityTable_one : tableEntry capacityTable v 1 = totalDataBits v := by
  rw [tableEntry, capacityTable_eq, getD_map_versions _ hv]
  rfl

theorem tableEntry_capacityTable_level (e : Level) :
    tableEntry capacityTable v (2 + levelCode e) = dataCodewords v e := by
  rw [tableEntry, capacityTable_eq, getD_map_versions _ hv]
  cases e <;> rfl

theorem tableEntry_eccTable_degree (e : Level) : tableEntry eccTable v (levelCode e) = blockDegree v e := by
  rw [tableEntry, eccTable_eq, getD_map_versions _ hv]
  cases e <;> rfl

theorem tableEntry_eccTable_count (e : Level) : tableEntry eccTable v (4 + levelCode e) = blockCount v e := by
  rw [tableEntry, eccTable_eq, getD_map_versions _ hv]
  cases e <;> rfl

theorem getD_alignTable : alignTable.getD (v - 1) [] = alignPositions v := by
  rw [alignTable_eq, getD_map_versions _ hv]

/-- The figures fit their fields of RES2 and RES3, and the shortest stream fits every capacity (R101, R113). -/
theorem capacityFigures_bounds (e : Level) :
    blockDegree v e < 2 ^ 8 ∧ blockCount v e < 2 ^ 8 ∧ totalDataBits v < 2 ^ 16 ∧ 20 ≤ dataCapacityBits v e := by
  have htable : ∀ v ∈ List.range' 1 40, ∀ e ∈ [Level.m, .l, .h, .q],
      blockDegree v e < 2 ^ 8 ∧ blockCount v e < 2 ^ 8 ∧ totalDataBits v < 2 ^ 16 ∧ 20 ≤ dataCapacityBits v e := by
    decide +kernel
  exact htable v (by rw [List.mem_range'_1]; unfold IsVersion at hv; omega) e (by cases e <;> simp)

end

/-! ## Whole codewords -/

/-- A symbol holds whole codewords and the remainder bits (R92). -/
theorem totalDataBits_eq (v : Nat) : totalDataBits v = 8 * totalCodewords v := by
  unfold totalCodewords totalDataBits
  omega

/-- The data of every version and level is whole codewords (R93). -/
theorem dataCapacityBits_eq (v : Nat) (e : Level) : dataCapacityBits v e = 8 * dataCodewords v e := by
  rw [dataCodewords, dataCapacityBits, totalDataBits_eq, Nat.mul_assoc, ← Nat.mul_sub,
    Nat.mul_div_cancel_left _ (by decide)]

/-! ## The greatest data length -/

theorem lengthIndicatorBits_eq_lengthWidth (v : Nat) (mo : Mode) : lengthIndicatorBits v mo = lengthWidth v mo := by
  cases mo <;> simp only [lengthIndicatorBits, lengthWidth, Nat.lt_succ_iff]

theorem lengthWidth_le (v : Nat) (mo : Mode) : lengthWidth v mo ≤ 16 := by
  cases mo <;> unfold lengthWidth <;> split_ifs <;> decide

/-- The greatest length of R96 is the last whose payload fits the bits beside mode indicator and length field. -/
theorem le_maxDataLength_iff_payloadLength_le (v : Nat) (mo : Mode) (e : Level) (n : Nat) :
    n ≤ maxDataLength v mo e ↔ payloadLength mo n ≤ dataCapacityBits v e - 4 - lengthIndicatorBits v mo := by
  unfold maxDataLength
  generalize dataCapacityBits v e - 4 - lengthIndicatorBits v mo = nb
  cases mo with
  | numeric =>
    simp only [payloadLength]
    split_ifs <;> omega
  | alphanumeric =>
    simp only [payloadLength]
    split_ifs <;> omega
  | octet =>
    simp only [payloadLength]
    omega

/-- Data is accepted exactly when its stream fits the capacity (R96, R113). -/
theorem le_maxDataLength_iff {v : Nat} (hv : IsVersion v) (mo : Mode) (e : Level) (n : Nat) :
    n ≤ maxDataLength v mo e ↔ streamLength v mo n ≤ dataCapacityBits v e := by
  obtain ⟨-, -, -, hcap⟩ := capacityFigures_bounds hv e
  have hwidth := lengthWidth_le v mo
  rw [le_maxDataLength_iff_payloadLength_le, lengthIndicatorBits_eq_lengthWidth, streamLength]
  omega

/-! ## CAPQ -/

/-- A field set above a value that does not reach it is added to it. -/
theorem or_shiftLeft_eq_add {a i : Nat} (h : a < 2 ^ i) (b : Nat) : a ||| b <<< i = a + 2 ^ i * b := by
  rw [Nat.or_comm, ← Nat.shiftLeft_add_eq_or_of_lt h, Nat.shiftLeft_eq, Nat.mul_comm, Nat.add_comm]

/-- The fields of RES2 do not overlap (R101). -/
theorem capqFields_eq_add {v : Nat} (hv : IsVersion v) (mo : Mode) (e : Level) (m : Nat) :
    lengthIndicatorBits v mo ||| blockDegree v e <<< 8 ||| blockCount v e <<< 16 ||| m <<< 24 =
      lengthIndicatorBits v mo + 2 ^ 8 * blockDegree v e + 2 ^ 16 * blockCount v e + 2 ^ 24 * m := by
  obtain ⟨hdegree, hcount, -, -⟩ := capacityFigures_bounds hv e
  have hwidth := lengthIndicatorBits_eq_lengthWidth v mo ▸ lengthWidth_le v mo
  rw [or_shiftLeft_eq_add (i := 8) (by omega), or_shiftLeft_eq_add (i := 16) (by omega),
    or_shiftLeft_eq_add (i := 24) (by omega)]

theorem exec_capq_eq (s : State) {ecc : BitVec 3} {ver : BitVec 6} {mode : BitVec 4} {e : Level} {mo : Mode}
    (hecc : levelOf ecc = some e) (hmode : modeOf mode = some mo) (hver : IsVersion ver.toNat) :
    exec (.capq ecc ver mode) s = .next { s with
      res0 := BitVec.ofNat 32 (dataCapacityBits ver.toNat e)
      res1 := BitVec.ofNat 32 (maxDataLength ver.toNat mo e)
      res2 := BitVec.ofNat 32 (lengthIndicatorBits ver.toNat mo + 2 ^ 8 * blockDegree ver.toNat e +
        2 ^ 16 * blockCount ver.toNat e + 2 ^ 24 * alignCount ver.toNat)
      res3 := BitVec.ofNat 32 (totalDataBits ver.toNat + 2 ^ 16 * rawModules ver.toNat)
      res4 := BitVec.ofNat 32 (sideOf ver.toNat)
      inflight := none, done := true, err := .ok } := by
  obtain ⟨-, -, hbits, -⟩ := capacityFigures_bounds hver e
  rw [← capqFields_eq_add hver, ← or_shiftLeft_eq_add hbits]
  simp only [exec, execCapq, hmode, hecc, versionOf_eq_toNat hver]
  rfl

/-- CAPQ checks MODE, then ECC, then VER (R101). -/
theorem exec_capq_failed (s : State) (ecc : BitVec 3) (ver : BitVec 6) (mode : BitVec 4) :
    (mode.toNat ≠ 1 ∧ mode.toNat ≠ 2 ∧ mode.toNat ≠ 4 →
      exec (.capq ecc ver mode) s = .next (failed s .invalidMode)) ∧
    (mode.toNat = 1 ∨ mode.toNat = 2 ∨ mode.toNat = 4 → 3 < ecc.toNat →
      exec (.capq ecc ver mode) s = .next (failed s .invalidECCLevel)) ∧
    (mode.toNat = 1 ∨ mode.toNat = 2 ∨ mode.toNat = 4 → ecc.toNat ≤ 3 → ¬ IsVersion ver.toNat →
      exec (.capq ecc ver mode) s = .next (failed s .invalidVersion)) := by
  refine ⟨fun hmode => ?_, fun hmode hecc => ?_, fun hmode hecc hver => ?_⟩
  · simp only [exec, execCapq, (modeOf_eq_none_iff mode).mpr hmode]
    rfl
  · obtain ⟨mo, hmo⟩ := exists_modeOf hmode
    simp only [exec, execCapq, hmo, (levelOf_eq_none_iff ecc).mpr hecc]
    rfl
  · obtain ⟨mo, hmo⟩ := exists_modeOf hmode
    obtain ⟨e, he⟩ := exists_levelOf hecc
    simp only [exec, execCapq, hmo, he, (versionOf_eq_none_iff ver).mpr hver]
    rfl

/-- Settles O38: the printed figures are the model's, and the greatest length is the last whose stream fits. -/
theorem capqReportsTheCapacities : Obligations.CapqReportsTheCapacities := by
  refine ⟨by decide +kernel, exec_capq_failed, fun s ecc ver mode e mo hecc hmode hver => ?_⟩
  have hexec := exec_capq_eq s ((levelOf_eq_some_iff ecc e).mpr hecc) ((modeOf_eq_some_iff mode mo).mpr hmode) hver
  simp only [hecc, tableEntry_capacityTable_zero hver, tableEntry_capacityTable_one hver,
    tableEntry_capacityTable_level hver, tableEntry_eccTable_degree hver, tableEntry_eccTable_count hver,
    getD_alignTable hver, ← dataCapacityBits_eq, ← lengthIndicatorBits_eq_lengthWidth, ← totalDataBits_eq, and_true]
  exact ⟨hexec, le_maxDataLength_iff hver mo e⟩

end Sys2Proof.Machine
end

section
/-! SUPPORT. The BCH codes (41_capacity.md R98 to R100): a code is its value followed by check bits that make it a
multiple of the generator over GF(2). -/

namespace Sys2Proof.Machine

open Sys2Proof.Claims

/-! ## The reduction -/

/-- One step of the reduction clears the top bit. -/
theorem reduceStep_lt {g r n i : Nat} (hg : (g <<< i) < 2 ^ (n + 1)) (htop : (g <<< i).testBit n = true)
    (hr : r < 2 ^ (n + 1)) : (if r.testBit n then r ^^^ g <<< i else r) < 2 ^ n := by
  have hlt : (if r.testBit n then r ^^^ g <<< i else r) < 2 ^ (n + 1) := by
    split
    · exact Nat.xor_lt_two_pow hr hg
    · exact hr
  have hclear : (if r.testBit n then r ^^^ g <<< i else r).testBit n = false := by
    split
    · next h => rw [Nat.testBit_xor, h, htop, Bool.xor_self]
    · next h => simpa using h
  refine Nat.lt_pow_two_of_testBit _ fun j hj => ?_
  obtain rfl | hj := Nat.eq_or_lt_of_le hj
  · exact hclear
  · exact Nat.testBit_lt_two_pow (hlt.trans_le (Nat.pow_le_pow_right (by decide) hj))

/-- The reduction by a generator of degree `q` leaves `q` bits (R98). -/
theorem bchReduce_lt {g q p r : Nat} (hg : g < 2 ^ (q + 1)) (htop : g.testBit q = true) (hr : r < 2 ^ (q + p)) :
    bchReduce g q p r < 2 ^ q := by
  induction p generalizing r with
  | zero => exact hr
  | succ p ih =>
    refine ih (reduceStep_lt ?_ (by simpa using htop) hr)
    rw [Nat.shiftLeft_eq, show q + p + 1 = q + 1 + p by omega, Nat.pow_add]
    exact Nat.mul_lt_mul_of_pos_right hg (by positivity)

/-- The product over GF(2) of the `n` low bits of `c` and `g`; `binaryProduct` takes six. -/
def carrylessSum (n c g : Nat) : Nat :=
  (List.range n).foldl (fun acc i => if c.testBit i then acc ^^^ (g <<< i) else acc) 0

theorem carrylessSum_succ (n c g : Nat) :
    carrylessSum (n + 1) c g = if c.testBit n then carrylessSum n c g ^^^ g <<< n else carrylessSum n c g := by
  rw [carrylessSum, List.range_succ, List.foldl_append]
  rfl

/-- Bits from `n` on do not count. -/
theorem carrylessSum_two_pow_add {m n : Nat} (h : m ≤ n) (c g : Nat) :
    carrylessSum m (2 ^ n + c) g = carrylessSum m c g := by
  induction m with
  | zero => rfl
  | succ m ih => rw [carrylessSum_succ, carrylessSum_succ, ih (by omega), Nat.testBit_two_pow_add_gt h]

/-- The reduction adds a multiple of the generator (R98). -/
theorem exists_bchReduce_eq (g q p r : Nat) : ∃ c < 2 ^ p, bchReduce g q p r = r ^^^ carrylessSum p c g := by
  induction p generalizing r with
  | zero => exact ⟨0, Nat.one_pos, (Nat.xor_zero r).symm⟩
  | succ p ih =>
    obtain ⟨c, hc, hreduce⟩ := ih (if r.testBit (q + p) then r ^^^ g <<< p else r)
    have hbit : c.testBit p = false := Nat.testBit_lt_two_pow hc
    rw [bchReduce, hreduce]
    split
    · refine ⟨2 ^ p + c, by omega, ?_⟩
      rw [carrylessSum_succ, carrylessSum_two_pow_add le_rfl, Nat.testBit_two_pow_add_eq, hbit, Bool.not_false,
        if_pos rfl, Nat.xor_assoc, Nat.xor_comm (g <<< p)]
    · exact ⟨c, by omega, by rw [carrylessSum_succ, hbit, if_neg Bool.false_ne_true]⟩

/-! ## The code -/

section

variable {value p g q : Nat} (hg : g < 2 ^ (q + 1)) (htop : g.testBit q = true) (hvalue : value < 2 ^ p)
include hg htop hvalue

/-- The check bits of a code. -/
theorem checkBits_lt : bchReduce g q p (value <<< q) < 2 ^ q := by
  refine bchReduce_lt hg htop ?_
  rw [Nat.shiftLeft_eq, Nat.mul_comm, Nat.pow_add]
  exact Nat.mul_lt_mul_of_pos_left hvalue (by positivity)

/-- A code begins with its value (R98). -/
theorem augmentBCH_div : augmentBCH value p g q / 2 ^ q = value := by
  have hcheck := checkBits_lt hg htop hvalue
  unfold augmentBCH
  generalize bchReduce g q p (value <<< q) = check at hcheck ⊢
  rw [← Nat.shiftLeft_add_eq_or_of_lt hcheck, Nat.shiftLeft_eq, Nat.mul_comm, Nat.mul_add_div (by positivity),
    Nat.div_eq_of_lt hcheck, Nat.add_zero]

/-- A code is a multiple of the generator (R98). -/
theorem exists_augmentBCH_eq : ∃ c < 2 ^ p, augmentBCH value p g q = carrylessSum p c g := by
  have hcheck := checkBits_lt hg htop hvalue
  obtain ⟨c, hc, hreduce⟩ := exists_bchReduce_eq g q p (value <<< q)
  refine ⟨c, hc, ?_⟩
  have hor : augmentBCH value p g q = value <<< q ^^^ bchReduce g q p (value <<< q) := by
    refine Nat.eq_of_testBit_eq fun i => ?_
    rw [augmentBCH, Nat.testBit_or, Nat.testBit_xor, Nat.testBit_shiftLeft]
    by_cases hi : q ≤ i
    · rw [Nat.testBit_lt_two_pow (hcheck.trans_le (Nat.pow_le_pow_right (by decide) hi)), Bool.or_false,
        Bool.xor_false]
    · simp [hi]
  rw [hor, hreduce, ← Nat.xor_assoc, Nat.xor_self, Nat.zero_xor]

end

/-! ## BCHQ -/

/-- The format codes are the printed ones (R99). -/
theorem formatCode_eq_printedFormat (e : Level) {m : Nat} (hm : m ≤ 7) : formatCode e m = printedFormat e m := by
  have htable : ∀ m ≤ 7, ∀ e ∈ [Level.m, .l, .h, .q], formatCode e m = printedFormat e m := by decide
  exact htable m hm e (by cases e <;> simp)

theorem versionCodes_eq : versionCodes = (List.range' 7 34).map versionCode := by
  decide +kernel

/-- The version codes are the printed ones (R100). -/
theorem versionCode_eq_getD {v : Nat} (hv : IsVersion v) (h7 : 7 ≤ v) :
    versionCode v = versionCodes.getD (v - 7) 0 := by
  unfold IsVersion at hv
  rw [versionCodes_eq, getD_map_range' _ (by omega)]

theorem exec_bchq_eq (s : State) {ecc : BitVec 3} {ver : BitVec 6} {mask : BitVec 4} {e : Level}
    (hecc : levelOf ecc = some e) (hver : IsVersion ver.toNat) (hmask : mask.toNat ≤ 7) :
    exec (.bchq ecc ver mask) s = .next { s with
      res0 := BitVec.ofNat 32 (printedFormat e mask.toNat)
      res1 := BitVec.ofNat 32 (versionCode ver.toNat)
      inflight := none, done := true, err := .ok } := by
  simp only [exec, execBchq, hecc, versionOf_eq_toNat hver, maskOf_eq_toNat hmask, formatCode_eq_printedFormat e hmask]
  rfl

/-- BCHQ checks ECC, then VER, then MASK (R102). -/
theorem exec_bchq_failed (s : State) (ecc : BitVec 3) (ver : BitVec 6) (mask : BitVec 4) :
    (3 < ecc.toNat → exec (.bchq ecc ver mask) s = .next (failed s .invalidECCLevel)) ∧
    (ecc.toNat ≤ 3 → ¬ IsVersion ver.toNat → exec (.bchq ecc ver mask) s = .next (failed s .invalidVersion)) ∧
    (ecc.toNat ≤ 3 → IsVersion ver.toNat → 7 < mask.toNat →
      exec (.bchq ecc ver mask) s = .next (failed s .invalidMask)) := by
  refine ⟨fun hecc => ?_, fun hecc hver => ?_, fun hecc hver hmask => ?_⟩
  · simp only [exec, execBchq, (levelOf_eq_none_iff ecc).mpr hecc]
    rfl
  · obtain ⟨e, he⟩ := exists_levelOf hecc
    simp only [exec, execBchq, he, (versionOf_eq_none_iff ver).mpr hver]
    rfl
  · obtain ⟨e, he⟩ := exists_levelOf hecc
    simp only [exec, execBchq, he, versionOf_eq_toNat hver, (maskOf_eq_none_iff mask).mpr hmask]
    rfl

/-- Settles O39: a code is its value followed by the check bits, and the codes are the printed ones. -/
theorem bchqGivesTheBchCodes : Obligations.BchqGivesTheBchCodes := by
  refine fun s ecc ver mask => ⟨fun hecc hver hmask => ⟨?_, ?_, ?_, versionCode_eq_getD hver⟩,
    exec_bchq_failed s ecc ver mask⟩
  · obtain ⟨e, he⟩ := exists_levelOf hecc
    rw [(levelOf_eq_some_iff ecc e).mp he]
    exact exec_bchq_eq s he hver hmask
  · exact augmentBCH_div (by decide) (by decide) ver.isLt
  · exact exists_augmentBCH_eq (by decide) (by decide) ver.isLt

end Sys2Proof.Machine
end

section
/-! SUPPORT. The alphabets (42_packer.md R103 to R106): the byte classes as sets, validity byte by byte, folding,
and the detected mode. -/

namespace Sys2Proof.Machine

open Sys2Proof.Claims

/-! ## The byte classes -/

theorem isDigit_iff (b : Byte) : isDigit b = true ↔ 0x30 ≤ b.toNat ∧ b.toNat ≤ 0x39 := decide_eq_true_iff

theorem isLower_iff (b : Byte) : isLower b = true ↔ 0x61 ≤ b.toNat ∧ b.toNat ≤ 0x7A := decide_eq_true_iff

/-- The set is the 45 bytes of the string of R104. -/
theorem isAlnum_iff_mem_alnumOrder (b : Byte) : isAlnum b = true ↔ b ∈ alnumOrder := by
  revert b
  decide +kernel

/-- No byte of the set is a lowercase letter (R103). -/
theorem isLower_of_isAlnum (b : Byte) (h : isAlnum b = true) : isLower b = false := by
  revert b
  decide +kernel

/-! ## Folding one byte -/

theorem foldByte_of_isAlnum {b : Byte} (h : isAlnum b = true) : foldByte b = b := by
  simp [foldByte, isLower_of_isAlnum b h]

/-- The capital of a lowercase letter is in the set (R105). -/
theorem isAlnum_foldByte_of_isLower {b : Byte} (h : isLower b = true) : isAlnum (foldByte b) = true := by
  have hlower := (isLower_iff b).mp h
  have hupper : isUpper (b - 0x20) = true := decide_eq_true (by bv_omega)
  rw [foldByte, if_pos h, isAlnum, hupper, Bool.or_true, Bool.true_or]

theorem foldByte_eq_ite (b : Byte) :
    foldByte b = if 0x61 ≤ b.toNat ∧ b.toNat ≤ 0x7A then b - 0x20 else b := by
  simp only [foldByte, isLower_iff]

/-! ## Validity, folding and detection of the input -/

theorem validFor_numeric_iff (data : List Byte) (f : Bool) :
    validFor .numeric data f = true ↔ ∀ b ∈ data, isDigit b = true := List.all_eq_true

theorem validFor_alphanumeric_iff (data : List Byte) (f : Bool) :
    validFor .alphanumeric data f = true ↔ ∀ b ∈ data, isAlnum b = true ∨ (f = true ∧ isLower b = true) := by
  simp [validFor]

theorem foldFor_eq_self {mo : Mode} {f : Bool} (h : mo ≠ .alphanumeric ∨ f = false) (data : List Byte) :
    foldFor mo data f = data := by
  unfold foldFor
  split
  · simp at h
  · rfl

/-- Valid without folding is valid with it (R105). -/
theorem validFor_of_strict {mo : Mode} {data : List Byte} (h : validFor mo data false = true) (f : Bool) :
    validFor mo data f = true := by
  cases mo with
  | numeric | octet => exact h
  | alphanumeric =>
    simp only [validFor_alphanumeric_iff, Bool.false_eq_true, false_and, or_false] at h ⊢
    exact fun b hb => .inl (h b hb)

/-- Folding leaves strictly valid input as it is (R105). -/
theorem foldFor_of_strict {mo : Mode} {data : List Byte} (h : validFor mo data false = true) (f : Bool) :
    foldFor mo data f = data := by
  by_cases hfold : mo = .alphanumeric ∧ f = true
  · obtain ⟨rfl, rfl⟩ := hfold
    simp only [validFor_alphanumeric_iff, Bool.false_eq_true, false_and, or_false] at h
    exact (List.map_congr_left fun b hb => foldByte_of_isAlnum (h b hb)).trans data.map_id
  · exact foldFor_eq_self (by cases f <;> simp_all) data

/-- Folding accepted alphanumeric input leaves only bytes of the set (R105). -/
theorem all_isAlnum_foldFor {data : List Byte} (h : validFor .alphanumeric data true = true) :
    (foldFor .alphanumeric data true).all isAlnum = true := by
  have hbyte : ∀ b ∈ data, isAlnum (foldByte b) = true := fun b hb => by
    obtain hset | ⟨-, hlower⟩ := (validFor_alphanumeric_iff data true).mp h b hb
    · rwa [foldByte_of_isAlnum hset]
    · exact isAlnum_foldByte_of_isLower hlower
  simpa [foldFor] using hbyte

/-- The detected mode accepts its input without folding (R106). -/
theorem validFor_detectMode (data : List Byte) : validFor (detectMode data) data false = true := by
  unfold detectMode
  split
  · next hdigits => exact hdigits
  split
  · next hset => simpa [validFor] using hset
  · rfl

theorem detectMode_eq (data : List Byte) :
    detectMode data =
      if ∀ b ∈ data, 0x30 ≤ b.toNat ∧ b.toNat ≤ 0x39 then Mode.numeric
      else if ∀ b ∈ data, b ∈ alnumOrder then Mode.alphanumeric else Mode.octet := by
  simp only [detectMode, List.all_eq_true, isDigit_iff, isAlnum_iff_mem_alnumOrder]

/-- Settles O41: the classes byte by byte, and from them validity, folding and detection of a list. -/
theorem detectionAndFoldingFollowTheRules : Obligations.DetectionAndFoldingFollowTheRules := by
  refine ⟨isAlnum_iff_mem_alnumOrder, fun data f => ⟨?_, ?_, rfl, ?_, fun mo h => foldFor_eq_self h data, ?_,
    validFor_of_strict (validFor_detectMode data) f, all_isAlnum_foldFor,
    fun mo h => ⟨validFor_of_strict h f, foldFor_of_strict h f⟩⟩⟩
  · simp only [validFor_numeric_iff, isDigit_iff]
  · simp only [validFor_alphanumeric_iff, isAlnum_iff_mem_alnumOrder, isLower_iff]
  · exact List.map_congr_left fun b _ => foldByte_eq_ite b
  · exact detectMode_eq data

end Sys2Proof.Machine
end

section
/-! SUPPORT. VALIDATE (42_packer.md R114): the mode it works in, and what folding leaves of each input byte. -/

namespace Sys2Proof.Machine

open Sys2Proof.Claims

/-! ## The working mode -/

theorem workingMode_of_modeCode {mode : BitVec 4} {mo : Mode} (h : mode.toNat = modeCode mo) (data : List Byte) :
    workingMode mode data = mo := by
  unfold workingMode
  rw [h]
  cases mo <;> rfl

/-- A MODE field that is accepted names the mode the command works in, by itself or by the data (R66, R114). -/
theorem resolveMode_of_modeChoice {mode : BitVec 4} {c : Choice Mode} (h : modeChoice mode = some c)
    (data : List Byte) : resolveMode c data = workingMode mode data := by
  unfold modeChoice at h
  split at h
  · next hauto =>
    cases h
    simp only [workingMode, hauto, resolveMode]
  · obtain ⟨mo, hmo, rfl⟩ := Option.map_eq_some_iff.mp h
    exact (workingMode_of_modeCode ((modeOf_eq_some_iff mode mo).mp hmo) data).symm

theorem exists_modeChoice {mode : BitVec 4}
    (h : mode.toNat = 0 ∨ mode.toNat = 1 ∨ mode.toNat = 2 ∨ mode.toNat = 4) : ∃ c, modeChoice mode = some c := by
  unfold modeChoice
  split
  · exact ⟨_, rfl⟩
  · next hfixed =>
    obtain ⟨mo, hmo⟩ := exists_modeOf (h.resolve_left hfixed)
    exact ⟨_, congrArg _ hmo⟩

/-! ## The folded input in memory -/

/-- The contents of IBUF[0 .. LEN-1] after folding (R105, R114). -/
def State.foldedContents (s : State) : List (Option Byte) :=
  (s.mem.slice ibufBase s.len.toNat).zipWith (fun old b => if isLower b then some (b - 0x20) else old)
    s.inputBytes

@[simp] theorem State.length_inputBytes (s : State) : s.inputBytes.length = s.len.toNat := s.length_readBytes _ _

@[simp] theorem State.length_foldedContents (s : State) : s.foldedContents.length = s.len.toNat := by
  simp [State.foldedContents]

theorem State.getD_foldedContents (s : State) {i : Nat} (h : i < s.len.toNat) :
    s.foldedContents.getD i none =
      if isLower (s.inputBytes.getD i 0) then some (s.inputBytes.getD i 0 - 0x20) else s.mem.read (ibufBase + i) := by
  have hlen : i < s.inputBytes.length := by rwa [s.length_inputBytes]
  simp [State.foldedContents, List.getD_eq_getElem?_getD, List.getElem?_zipWith, Memory.getElem?_slice _ _ _ _ h,
    List.getElem?_eq_getElem hlen]

/-- The folded contents differ from memory at the lowercase letters of the input only (R105, R114). -/
theorem State.read_setRange_foldedContents (s : State) (hlen : s.len.toNat ≤ ibufSize) (a : Nat) :
    (s.mem.setRange ibufBase s.foldedContents).read a =
      if (ibufBase ≤ a ∧ a < ibufBase + s.len.toNat) ∧ isLower (s.inputBytes.getD (a - ibufBase) 0) = true then
        some (s.inputBytes.getD (a - ibufBase) 0 - 0x20)
      else s.mem.read a := by
  rw [Memory.read_setRange, s.length_foldedContents]
  by_cases ha : ibufBase ≤ a ∧ a < ibufBase + s.len.toNat
  · obtain ⟨i, rfl⟩ := Nat.exists_eq_add_of_le ha.1
    unfold ibufSize at hlen
    rw [if_pos ha, unlisted_buffer _ (by unfold ibufBase; omega) (by unfold ibufBase at *; omega), Option.or_none,
      Nat.add_sub_cancel_left, s.getD_foldedContents (by omega)]
    simp only [ha, true_and]
  · rw [if_neg ha, if_neg fun h => ha h.1]

/-! ## The command -/

/-- The memory VALIDATE leaves (R114). -/
def State.validatedMem (s : State) (mo : Mode) : Memory :=
  if mo = .alphanumeric ∧ s.sampledFold = true then s.mem.setRange ibufBase s.foldedContents else s.mem

theorem State.read_validatedMem (s : State) (hlen : s.len.toNat ≤ ibufSize) (mo : Mode) (a : Nat) :
    (s.validatedMem mo).read a =
      if mo = .alphanumeric ∧ s.sampledFold = true ∧ ibufBase ≤ a ∧ a < ibufBase + s.len.toNat ∧
          isLower (s.inputBytes.getD (a - ibufBase) 0) = true then
        some (s.inputBytes.getD (a - ibufBase) 0 - 0x20)
      else s.mem.read a := by
  unfold State.validatedMem
  by_cases hfold : mo = .alphanumeric ∧ s.sampledFold = true
  · simp only [hfold, and_self, if_true, true_and, s.read_setRange_foldedContents hlen, and_assoc]
  · rw [if_neg hfold, if_neg fun h => hfold ⟨h.1, h.2.1⟩]

theorem execValidate_eq (s : State) {mode : BitVec 4} {c : Choice Mode} (hc : modeChoice mode = some c) :
    execValidate mode s =
      if s.len.toNat > ibufSize then .next (s.raise .operandRange)
      else if validFor (workingMode mode s.inputBytes) s.inputBytes s.sampledFold = false then
        .next ((s.drew s.len.toNat).raise .invalidDataFormat)
      else .next { s.drew s.len.toNat with
        mem := s.validatedMem (workingMode mode s.inputBytes)
        res0 := BitVec.ofNat 32 (modeCode (workingMode mode s.inputBytes))
        res1 := s.len.setWidth 32 }.finish := by
  simp only [execValidate, hc, resolveMode_of_modeChoice hc]
  rfl

/-- Settles O40: the accepted command writes the folded contents, and these differ from memory at lowercase letters
only. -/
theorem validateReportsAndFolds : Obligations.ValidateReportsAndFolds := by
  intro s mode hmode hlen hvalid
  obtain ⟨c, hc⟩ := exists_modeChoice hmode
  refine ⟨_, (execValidate_eq s hc).trans ((if_neg (by unfold ibufSize; omega)).trans (if_neg (by simp [hvalid]))),
    ?_, fun a => ?_⟩
  · rw [BitVec.ofNat_toNat]
    rfl
  · exact s.read_validatedMem hlen _ a

end Sys2Proof.Machine
end

section
/-! SUPPORT. The stream of the packer (42_packer.md R108 to R111): its length, and each group of its bits against
the bit of the rule. -/

namespace Sys2Proof.Machine

open Sys2Proof.Claims

/-! ## Groups of bits -/

@[simp] theorem length_putBits (x w : Nat) : (putBits x w).length = w := by simp [putBits]

/-- A row of bits whose first `w` are those of a number is that number's group and the row after it. -/
theorem putBits_append_map_range {f g : Nat → Bool} {x w : Nat} (n : Nat)
    (hhead : ∀ k, k < w → f k = x.testBit (w - 1 - k)) (htail : ∀ k, k < n → f (w + k) = g k) :
    putBits x w ++ (List.range n).map g = (List.range (w + n)).map f := by
  rw [List.range_add, List.map_append, List.map_map, putBits]
  congr 1
  · exact List.map_congr_left fun k hk => (hhead k (List.mem_range.mp hk)).symm
  · exact List.map_congr_left fun k hk => (htail k (List.mem_range.mp hk)).symm

theorem putBits_eq_map_range {f : Nat → Bool} {x w : Nat} (h : ∀ k, k < w → f k = x.testBit (w - 1 - k)) :
    putBits x w = (List.range w).map f :=
  List.map_congr_left fun k hk => (h k (List.mem_range.mp hk)).symm

/-! ## The payload -/

theorem length_numericBits (data : List Byte) :
    (numericBits data).length = payloadLength .numeric data.length := by
  induction data using numericBits.induct with
  | case1 a b c rest ih =>
    simp only [numericBits, List.length_append, length_putBits, ih, payloadLength, List.length_cons]
    have hgroups : (rest.length + 1 + 1 + 1) / 3 = rest.length / 3 + 1 := by omega
    have hlast : (rest.length + 1 + 1 + 1) % 3 = rest.length % 3 := by omega
    simp only [hgroups, hlast]
    omega
  | case2 | case3 | case4 => simp [numericBits, payloadLength]

theorem length_alnumBits (data : List Byte) :
    (alnumBits data).length = payloadLength .alphanumeric data.length := by
  induction data using alnumBits.induct with
  | case1 a b rest ih =>
    simp only [alnumBits, List.length_append, length_putBits, ih, payloadLength, List.length_cons]
    omega
  | case2 | case3 => simp [alnumBits, payloadLength]

theorem length_payloadBits (mo : Mode) (data : List Byte) :
    (payloadBits mo data).length = payloadLength mo data.length := by
  cases mo with
  | numeric => exact length_numericBits data
  | alphanumeric => exact length_alnumBits data
  | octet => simp [payloadBits, octetBits, List.length_flatMap, payloadLength, Nat.mul_comm]

/-- After the first group of three digits the bits are those of the digits after it (R109). -/
theorem payloadBit_numeric_cons (a b c : Byte) (rest : List Byte) (k : Nat) :
    payloadBit .numeric (a :: b :: c :: rest) (10 + k) = payloadBit .numeric rest k := by
  have hgroup : (10 + k) / 10 = k / 10 + 1 := by omega
  have hbyte (i : Nat) : (a :: b :: c :: rest).getD (3 * (k / 10 + 1) + i) 0 = rest.getD (3 * (k / 10) + i) 0 := by
    rw [show 3 * (k / 10 + 1) + i = 3 * (k / 10) + i + 1 + 1 + 1 by omega]
    rfl
  have hleft : rest.length + 1 + 1 + 1 - 3 * (k / 10 + 1) = rest.length - 3 * (k / 10) := by omega
  simp only [payloadBit, hgroup, Nat.add_mod_left, List.length_cons, hbyte, hleft]

/-- The digits in groups of three, the last group shorter (R109). -/
theorem numericBits_eq (data : List Byte) :
    numericBits data = (List.range (payloadLength .numeric data.length)).map (payloadBit .numeric data) := by
  have hfirst : ∀ k, k < 10 → k / 10 = 0 ∧ k % 10 = k := by omega
  induction data using numericBits.induct with
  | case1 a b c rest ih =>
    have hlen : payloadLength .numeric (a :: b :: c :: rest).length = 10 + payloadLength .numeric rest.length := by
      rw [← length_numericBits, ← length_numericBits, numericBits, List.length_append, length_putBits]
    rw [numericBits, ih, hlen]
    refine putBits_append_map_range _ (fun k hk => ?_) fun k _ => payloadBit_numeric_cons a b c rest k
    simp [payloadBit, hfirst k hk, digitValue]
  | case2 a b =>
    rw [← length_numericBits, numericBits, length_putBits]
    refine putBits_eq_map_range fun k hk => ?_
    simp [payloadBit, hfirst k (by omega), digitValue]
  | case3 a =>
    rw [← length_numericBits, numericBits, length_putBits]
    refine putBits_eq_map_range fun k hk => ?_
    simp [payloadBit, hfirst k (by omega), digitValue]
  | case4 => rfl

/-- The value of a byte of the set is its place in the string of R104. -/
theorem alnumValue_eq_idxOf (b : Byte) (h : isAlnum b = true) : alnumValue b = alnumOrder.idxOf b := by
  revert b
  decide +kernel

/-- After the first pair the bits are those of the characters after it (R110). -/
theorem payloadBit_alphanumeric_cons (a b : Byte) (rest : List Byte) (k : Nat) :
    payloadBit .alphanumeric (a :: b :: rest) (11 + k) = payloadBit .alphanumeric rest k := by
  have hgroup : (11 + k) / 11 = k / 11 + 1 := by omega
  have hbyte (i : Nat) : (a :: b :: rest).getD (2 * (k / 11 + 1) + i) 0 = rest.getD (2 * (k / 11) + i) 0 := by
    rw [show 2 * (k / 11 + 1) + i = 2 * (k / 11) + i + 1 + 1 by omega]
    rfl
  have hleft : rest.length + 1 + 1 - 2 * (k / 11 + 1) = rest.length - 2 * (k / 11) := by omega
  simp only [payloadBit, hgroup, Nat.add_mod_left, List.length_cons, hbyte, hleft]

/-- The characters in pairs, the last one alone (R110). -/
theorem alnumBits_eq (data : List Byte) (h : ∀ b ∈ data, isAlnum b = true) :
    alnumBits data = (List.range (payloadLength .alphanumeric data.length)).map (payloadBit .alphanumeric data) := by
  have hfirst : ∀ k, k < 11 → k / 11 = 0 ∧ k % 11 = k := by omega
  induction data using alnumBits.induct with
  | case1 a b rest ih =>
    simp only [List.forall_mem_cons] at h
    obtain ⟨ha, hb, hrest⟩ := h
    have hlen : payloadLength .alphanumeric (a :: b :: rest).length =
        11 + payloadLength .alphanumeric rest.length := by
      rw [← length_alnumBits, ← length_alnumBits, alnumBits, List.length_append, length_putBits]
    rw [alnumBits, ih hrest, hlen]
    refine putBits_append_map_range _ (fun k hk => ?_) fun k _ => payloadBit_alphanumeric_cons a b rest k
    simp [payloadBit, hfirst k hk, alnumValue_eq_idxOf, ha, hb, Nat.mul_comm]
  | case2 a =>
    rw [← length_alnumBits, alnumBits, length_putBits]
    refine putBits_eq_map_range fun k hk => ?_
    simp [payloadBit, hfirst k (by omega), alnumValue_eq_idxOf a (h a (by simp))]
  | case3 => rfl

/-- The bytes one after the other (R111). -/
theorem octetBits_eq (data : List Byte) :
    octetBits data = (List.range (payloadLength .octet data.length)).map (payloadBit .octet data) := by
  induction data with
  | nil => rfl
  | cons b data ih =>
    have hlen : payloadLength .octet (b :: data).length = 8 + payloadLength .octet data.length := by
      simp only [payloadLength, List.length_cons]
      omega
    rw [hlen, octetBits, List.flatMap_cons, ← octetBits, ih]
    refine putBits_append_map_range _ (fun k hk => ?_) fun k _ => ?_
    · simp [payloadBit, Nat.div_eq_of_lt hk, Nat.mod_eq_of_lt hk, BitVec.testBit_toNat]
    · have hbyte : (8 + k) / 8 = k / 8 + 1 := by omega
      simp [payloadBit, hbyte]

theorem payloadBits_eq {mo : Mode} {data : List Byte} (h : validFor mo data false = true) :
    payloadBits mo data = (List.range (payloadLength mo data.length)).map (payloadBit mo data) := by
  cases mo with
  | numeric => exact numericBits_eq data
  | alphanumeric => exact alnumBits_eq data (by simpa [validFor_alphanumeric_iff] using h)
  | octet => exact octetBits_eq data

/-! ## The stream -/

theorem length_serialize (v : Nat) (mo : Mode) (data : List Byte) :
    (serialize v mo data).length = streamLength v mo data.length := by
  simp [serialize, length_payloadBits, streamLength, lengthIndicatorBits_eq_lengthWidth, Nat.add_assoc]

/-- The stream of valid data is the mode indicator, the length field and the payload of the rules (R108). -/
theorem serialize_eq_streamOf (v : Nat) {mo : Mode} {data : List Byte} (h : validFor mo data false = true) :
    serialize v mo data = streamOf v mo data := by
  rw [serialize, payloadBits_eq h, lengthIndicatorBits_eq_lengthWidth, streamOf, streamLength, List.append_assoc,
    Nat.add_assoc]
  have htail : putBits data.length (lengthWidth v mo) ++
      (List.range (payloadLength mo data.length)).map (payloadBit mo data) =
        (List.range (lengthWidth v mo + payloadLength mo data.length)).map fun k => streamBit v mo data (4 + k) :=
    putBits_append_map_range _ (fun k hk => by simp [streamBit, hk]) fun k _ => by simp [streamBit]
  rw [htail]
  refine putBits_append_map_range _ (fun k hk => ?_) fun k _ => rfl
  cases mo <;> simp [streamBit, hk, modeNumber, modeCode]

/-- Settles O42: the lengths of the groups add up, the greatest length is the last that fits, and each group is the
one of its rule. -/
theorem acceptedDataFitsItsCodewords : Obligations.AcceptedDataFitsItsCodewords := by
  intro v mo e data hv hlen
  refine ⟨length_serialize v mo data, ?_, serialize_eq_streamOf v⟩
  rw [length_serialize]
  exact (le_maxDataLength_iff hv mo e data.length).mp hlen

end Sys2Proof.Machine
end

section
/-! SUPPORT. The codewords of a stream (42_packer.md R112) bit by bit, and PACK (R115). -/

namespace Sys2Proof.Machine

open Sys2Proof.Claims

/-! ## The bits of a byte -/

/-- The number of some binary digits, least significant first, has them as its bits. -/
theorem testBit_foldr_bit (bits : List Bool) (i : Nat) : (bits.foldr Nat.bit 0).testBit i = bits.getD i false := by
  induction bits generalizing i with
  | nil => simp
  | cons b bits ih =>
    cases i with
    | zero => exact Nat.testBit_bit_zero b _
    | succ i => rw [List.foldr_cons, Nat.testBit_bit_succ, ih, List.getD_cons_succ]

theorem byteOfBits_eq (bits : List Bool) : byteOfBits bits = BitVec.ofNat 8 (bits.reverse.foldr Nat.bit 0) := by
  simp only [byteOfBits, List.foldr_reverse, Nat.bit_val]

/-- The first of eight stream bits is bit 7 of their byte (20_memory.md R47). -/
theorem getLsbD_byteOfBits {bits : List Bool} (h : bits.length = 8) {k : Nat} (hk : k < 8) :
    (byteOfBits bits).getLsbD (7 - k) = bits.getD k false := by
  have hplace : 7 - k < bits.length := by omega
  have hmirror : bits.length - 1 - (7 - k) = k := by omega
  rw [byteOfBits_eq, BitVec.getLsbD_ofNat, testBit_foldr_bit, List.getD_eq_getElem?_getD,
    List.getElem?_reverse hplace, hmirror, decide_eq_true (by omega), Bool.true_and, List.getD_eq_getElem?_getD]

/-- Stream bit `k` of some bytes, the first bit of a byte in bit 7 (20_memory.md R47). -/
def bytesBit (bs : List Byte) (k : Nat) : Bool := (bs.getD (k / 8) 0).getLsbD (7 - k % 8)

theorem bytesBit_cons_of_lt (b : Byte) (bs : List Byte) {k : Nat} (hk : k < 8) :
    bytesBit (b :: bs) k = b.getLsbD (7 - k) := by
  simp [bytesBit, Nat.div_eq_of_lt hk, Nat.mod_eq_of_lt hk]

theorem bytesBit_cons_add (b : Byte) (bs : List Byte) (k : Nat) : bytesBit (b :: bs) (k + 8) = bytesBit bs k := by
  simp [bytesBit]

/-- The bytes of a stream hold its bits in order (20_memory.md R47). -/
theorem bytesBit_bytesOfBits (bits : List Bool) {k : Nat} (hk : k < 8 * (bits.length / 8)) :
    bytesBit (bytesOfBits bits) k = bits.getD k false := by
  induction bits using bytesOfBits.induct generalizing k with
  | case1 b7 b6 b5 b4 b3 b2 b1 b0 rest ih =>
    rw [bytesOfBits]
    by_cases hfirst : k < 8
    · rw [bytesBit_cons_of_lt _ _ hfirst, getLsbD_byteOfBits rfl hfirst]
      exact (List.getD_append [b7, b6, b5, b4, b3, b2, b1, b0] rest false k hfirst).symm
    · obtain ⟨k, rfl⟩ := Nat.exists_eq_add_of_le' (Nat.le_of_not_lt hfirst)
      rw [bytesBit_cons_add, ih (by simp only [List.length_cons] at hk; omega)]
      rfl
  | case2 bits hshort =>
    have hnone := length_bytesOfBits bits
    rw [bytesOfBits.eq_2 _ hshort, List.length_nil] at hnone
    omega

/-! ## The finished stream -/

/-- Zero bits after a stream read as what is beyond its end. -/
theorem getD_append_replicate_false (bits : List Bool) (n k : Nat) :
    (bits ++ List.replicate n false).getD k false = bits.getD k false := by
  by_cases hk : k < bits.length
  · exact List.getD_append _ _ _ _ hk
  · rw [List.getD_append_right _ _ _ _ (Nat.le_of_not_lt hk), List.getD_eq_default _ _ (Nat.le_of_not_lt hk),
      List.getD_eq_getElem?_getD, List.getElem?_getD_replicate_default_eq]

theorem putBits_zero (w : Nat) : putBits 0 w = List.replicate w false := by
  rw [putBits, List.map_congr_left fun _ _ => Nat.zero_testBit _, List.map_const', List.length_range]

/-- The stream with its terminator, cut at the capacity, and its fill (R112). -/
def filledStream (bits : List Bool) (dt : Nat) : List Bool := zeroFill ((bits ++ putBits 0 4).take (8 * dt))

theorem finishStream_eq (bits : List Bool) (dt : Nat) :
    finishStream bits dt =
      bytesOfBits (filledStream bits dt) ++ padBytes (dt - (bytesOfBits (filledStream bits dt)).length) := rfl

theorem length_filledStream (bits : List Bool) (dt : Nat) :
    (filledStream bits dt).length = 8 * ((min (bits.length + 4) (8 * dt) + 7) / 8) := by
  simp only [filledStream, zeroFill, List.length_append, List.length_replicate, List.length_take, length_putBits]
  omega

/-- Terminator and fill are 0 (R112). -/
theorem getD_filledStream (bits : List Bool) {dt k : Nat} (hk : k < 8 * dt) :
    (filledStream bits dt).getD k false = bits.getD k false := by
  rw [filledStream, zeroFill, getD_append_replicate_false, List.getD_eq_getElem?_getD, List.getElem?_take_of_lt hk,
    ← List.getD_eq_getElem?_getD, putBits_zero, getD_append_replicate_false]

/-- Every bit of the finished stream: its own, 0 in terminator and fill, and those of the pad bytes (R112). -/
theorem bytesBit_finishStream {bits : List Bool} {dt k : Nat} (hk : k < 8 * dt) :
    bytesBit (finishStream bits dt) k = codewordBit bits dt k := by
  obtain ⟨full, hfull⟩ : ∃ full, (min (bits.length + 4) (8 * dt) + 7) / 8 = full := ⟨_, rfl⟩
  have hfilled : (filledStream bits dt).length = 8 * full := by rw [length_filledStream, hfull]
  have hbytes : (bytesOfBits (filledStream bits dt)).length = full := by
    rw [length_bytesOfBits, hfilled, Nat.mul_div_cancel_left _ (by decide)]
  rw [finishStream_eq, bytesBit, codewordBit, hbytes, hfull]
  by_cases hin : k / 8 < full
  · have hbit : bytesBit (bytesOfBits (filledStream bits dt)) k = bits.getD k false := by
      rw [bytesBit_bytesOfBits _ (by omega), getD_filledStream bits hk]
    rw [List.getD_append _ _ _ _ (by omega), ← bytesBit, hbit, if_pos hin]
    split
    · rfl
    · exact List.getD_eq_default _ _ (by omega)
  · rw [List.getD_append_right _ _ _ _ (by omega), hbytes, if_neg (by omega), if_neg hin, padBytes]
    have hpad : k / 8 - full < dt - full := by omega
    simp [List.getD_eq_getElem?_getD, List.getElem?_range hpad]

/-! ## The command -/

theorem exec_pack_eq (s : State) {ecc : BitVec 3} {ver : BitVec 6} {mode : BitVec 4} {e : Level} {mo : Mode}
    (hecc : levelOf ecc = some e) (hmode : modeOf mode = some mo) (hver : IsVersion ver.toNat)
    (hlen : s.len.toNat ≤ ibufSize) (hvalid : validFor mo s.inputBytes false = true)
    (hfits : s.len.toNat ≤ maxDataLength ver.toNat mo e) :
    exec (.pack ecc ver mode) s = .next { (s.drew s.len.toNat).packInto ver.toNat e mo s.inputBytes with
      res0 := BitVec.ofNat 32 (dataCodewords ver.toNat e)
      res1 := BitVec.ofNat 32 (serialize ver.toNat mo s.inputBytes).length }.finish := by
  simp only [exec, execPack, hmode, if_neg (Nat.not_lt.mpr hlen), hvalid, Bool.true_eq_false, if_false, hecc,
    versionOf_eq_toNat hver, if_neg (Nat.not_lt.mpr hfits)]

/-- Stored bytes hold their bits (R15, R47). -/
theorem storedBit_writeBytes (m : Memory) (base : Nat) {bs : List Byte} {k : Nat} (hk : k < 8 * bs.length) :
    storedBit (m.writeBytes base bs) base k = some (bytesBit bs k) := by
  rw [storedBit, Memory.read_writeBytes, if_pos (by omega), Nat.add_sub_cancel_left]
  rfl

/-- Settles O43: the codewords stored in CWB are the finished stream, whose bits are those of the rule. -/
theorem packWritesTheCodewords : Obligations.PackWritesTheCodewords := by
  intro s ecc ver mode e mo hecc hmode hver hlen hvalid hfits
  have hstream := serialize_eq_streamOf ver.toNat hvalid
  refine ⟨_, exec_pack_eq s ((levelOf_eq_some_iff ecc e).mpr hecc) ((modeOf_eq_some_iff mode mo).mpr hmode) hver hlen
    hvalid hfits, ?_, fun k hk => ?_, fun a ha => ?_⟩
  · rw [length_serialize, s.length_inputBytes]
    rfl
  · refine (storedBit_writeBytes s.mem cwbBase (by rwa [length_packedCodewords])).trans (congrArg some ?_)
    rw [packedCodewords, hstream]
    exact bytesBit_finishStream hk
  · refine (Memory.read_writeBytes s.mem cwbBase _ a).trans (if_neg ?_)
    rw [length_packedCodewords]
    omega

end Sys2Proof.Machine
end

section
/-! SUPPORT. The memory each operation of a command leaves alone, and from it the memory each command leaves alone:
the "Writes" of the rules R114, R115, R120, R121, R132, R133, R145, R146, R148 and R151. -/

namespace Sys2Proof.Machine

open Sys2Proof.Claims

/-! ## Squares -/

/-- A read already takes what an unlisted offset reads as. -/
theorem Memory.read_or_unlisted (m : Memory) (a : Nat) : (m.read a).or (unlisted a) = m.read a := by
  rw [Memory.read_eq_listed, Option.or_assoc, Option.or_self]

/-- An offset that is no cell of the square, or a cell that keeps its content, reads as before. -/
theorem Memory.read_mapSquare_of_kept (m : Memory) {base n a : Nat} {f : Nat → Nat → Option Byte → Option Byte}
    (hn : n ≤ maxSide)
    (h : ∀ r c, r < n → c < n → a = cellAddr base r c → f r c (m.read a) = m.read a) :
    (m.mapSquare base n f).read a = m.read a := by
  unfold maxSide at hn
  rw [Memory.read_mapSquare _ _ _ _ _ (by omega)]
  split
  · next hin =>
    obtain ⟨hbase, hr, hc⟩ := hin
    rw [h _ _ hr hc (by unfold cellAddr; omega), m.read_or_unlisted]
  · rfl

/-! ## The scan -/

theorem fst_le_of_mem_scanPairs {fuel c : Nat} {up : Bool} {p : Nat × Bool} (h : p ∈ scanPairs fuel c up) :
    p.1 ≤ c := by
  induction fuel generalizing c up with
  | zero => cases h
  | succ fuel ih =>
    obtain ⟨d, hd⟩ : ∃ d, (if c = 6 then 5 else c) = d := ⟨_, rfl⟩
    have hdc : d ≤ c := by split at hd <;> omega
    simp only [scanPairs, hd, List.mem_cons] at h
    obtain rfl | h := h
    · exact hdc
    split at h
    · cases h
    · exact (ih h).trans (by omega)

/-- The scan visits free cells of the square only (R129). -/
theorem free_of_mem_scanCells {n : Nat} {rsv : List (List Bool)} {rc : Nat × Nat} (h : rc ∈ scanCells n rsv) :
    rc.1 < n ∧ rc.2 < n ∧ cellAt rsv rc.1 rc.2 = false := by
  obtain ⟨hcell, hfree⟩ := List.mem_filter.mp h
  obtain ⟨p, hp, hrc⟩ := List.mem_flatMap.mp hcell
  obtain ⟨t, ht, hrc⟩ := List.mem_flatMap.mp hrc
  have hcol := fst_le_of_mem_scanPairs hp
  rw [List.mem_range] at ht
  have hrow : (if p.2 then n - 1 - t else t) < n := by split <;> omega
  refine ⟨?_, ?_, by simpa using hfree⟩
  all_goals
    simp only [List.mem_cons, List.not_mem_nil, or_false] at hrc
    obtain rfl | rfl := hrc <;> dsimp only <;> omega

theorem exists_cell_of_lookup_placedBits {cells : List (Nat × Nat)} {bits : List Bool} {a : Nat} {b : Byte}
    (h : (placedBits cells bits).lookup a = some b) : ∃ rc ∈ cells, a = cellAddr mtxBase rc.1 rc.2 := by
  obtain ⟨l₁, l₂, hsplit, -⟩ := List.lookup_eq_some_iff.mp h
  have hmem : (a, b) ∈ placedBits cells bits := hsplit ▸ by simp
  obtain ⟨i, hi, hab⟩ := List.getElem_of_mem hmem
  simp only [placedBits, List.getElem_zipWith, Prod.mk.injEq] at hab
  exact ⟨_, List.getElem_mem _, hab.1.symm⟩

/-! ## The format cells -/

theorem getD_idxOf {l : List Nat} {x : Nat} (h : x ∈ l) : l.getD (l.idxOf x) 0 = x := by
  rw [List.getD_eq_getElem _ _ (List.idxOf_lt_length_of_mem h), List.getElem_idxOf]

/-- A cell that takes a format bit is one of the 30 (R136). -/
theorem isFormatCell_of_formatCell {n code r c : Nat} (h : formatCell n code r c ≠ none) :
    IsFormatCell n (cellAddr mtxBase r c) := by
  unfold formatCell at h
  split at h
  · next hrow =>
    obtain ⟨rfl, hmem⟩ := hrow
    exact ⟨_, List.idxOf_lt_length_of_mem hmem, .inl (by rw [getD_idxOf hmem])⟩
  split at h
  · next hcol =>
    obtain ⟨rfl, hmem⟩ := hcol
    exact ⟨_, List.idxOf_lt_length_of_mem hmem, .inr (by rw [getD_idxOf hmem])⟩
  · exact absurd rfl h

/-! ## The operations on the matrix -/

section

variable {s : State} {a : Nat} (hver : s.version ≤ 40)

include hver

/-- PLACE's work writes data cells only (R133). -/
theorem State.read_placeInto (ha : ¬ IsDataCell s a) : s.placeInto.mem.read a = s.mem.read a := by
  rw [State.placeInto_eq]
  refine Memory.read_mapSquare_of_kept _ (s.side_le hver) fun r c hr hc hcell => ?_
  rw [placeCell_eq]
  cases hplaced : s.placedCells.lookup (cellAddr mtxBase r c) with
  | none => rfl
  | some b =>
    obtain ⟨rc, hscan, haddr⟩ := exists_cell_of_lookup_placedBits hplaced
    obtain ⟨hr', hc', hfree⟩ := free_of_mem_scanCells hscan
    exact absurd ⟨_, _, hr', hc', hfree, hcell.trans haddr⟩ ha

/-- The mask changes data cells only (R135). -/
theorem State.read_maskInto (m : Nat) (ha : ¬ IsDataCell s a) : (s.maskInto m).mem.read a = s.mem.read a := by
  refine Memory.read_mapSquare_of_kept _ (s.side_le hver) fun r c hr hc hcell => ?_
  have hreserved : cellAt s.reserved r c = true :=
    Bool.eq_true_of_not_eq_false fun hfree => ha ⟨r, c, hr, hc, hfree, hcell⟩
  rw [hreserved]
  rfl

/-- The format information goes to format cells of the square only (R136). -/
theorem State.read_formatInto (e : Level) (m : Nat) (ha : ¬ (InMtxSquare s.side a ∧ IsFormatCell s.side a)) :
    (s.formatInto e m).mem.read a = s.mem.read a := by
  refine Memory.read_mapSquare_of_kept _ (s.side_le hver) fun r c hr hc hcell => ?_
  have hnone : formatCell s.side (formatCode e m) r c = none := by
    by_contra hsome
    exact ha ⟨⟨r, c, hr, hc, hcell⟩, hcell ▸ isFormatCell_of_formatCell hsome⟩
  rw [hnone]
  rfl

/-- A selection writes what its mask and its format information write (R148). -/
theorem State.read_selectMask (e : Level) (c : Choice Nat) (hdata : ¬ IsDataCell s a)
    (hformat : ¬ (InMtxSquare s.side a ∧ IsFormatCell s.side a)) :
    (s.selectMask e c).mem.read a = s.mem.read a := by
  have hcommit : ∀ m, ((s.maskInto m).formatInto e m).mem.read a = s.mem.read a := fun m =>
    (State.read_formatInto (s := s.maskInto m) hver e m hformat).trans (State.read_maskInto hver m hdata)
  cases c with
  | fixed m => exact hcommit m
  | auto => exact hcommit (bestMask (trialScores s.side e s.reserved s.matrix))

end

theorem not_isDataCell_of_not_inMtxSquare {s : State} {a : Nat} (h : ¬ InMtxSquare s.side a) : ¬ IsDataCell s a :=
  fun ⟨r, c, hr, hc, _, hcell⟩ => h ⟨r, c, hr, hc, hcell⟩

/-- The base matrix writes the two squares of its version (R128). -/
theorem State.read_buildBaseInto (s : State) {v a : Nat} (hv : IsVersion v) (hmtx : ¬ InMtxSquare (sideOf v) a)
    (hrsv : ¬ InRsvSquare (sideOf v) a) : (s.buildBaseInto v).mem.read a = s.mem.read a := by
  have hn : sideOf v ≤ maxSide := by
    unfold IsVersion at hv
    unfold sideOf maxSide
    omega
  refine (Memory.read_mapSquare_of_kept _ hn fun r c hr hc hcell => absurd ⟨r, c, hr, hc, hcell⟩ hrsv).trans ?_
  exact Memory.read_mapSquare_of_kept _ hn fun r c hr hc hcell => absurd ⟨r, c, hr, hc, hcell⟩ hmtx

/-! ## The operations on the buffers -/

theorem Memory.read_writeBytes_outside (m : Memory) {base a : Nat} {bs : List Byte}
    (h : ¬ (base ≤ a ∧ a < base + bs.length)) : (m.writeBytes base bs).read a = m.read a := by
  rw [Memory.read_writeBytes, if_neg h]

theorem State.read_packInto (s : State) {v a : Nat} {e : Level} (mo : Mode) (data : List Byte)
    (h : ¬ (cwbBase ≤ a ∧ a < cwbBase + dataCodewords v e)) :
    (s.packInto v e mo data).mem.read a = s.mem.read a :=
  Memory.read_writeBytes_outside _ (by rwa [length_packedCodewords])

/-- The codewords of a symbol are its data codewords and those of its blocks (R93). -/
theorem totalCodewords_eq {v : Nat} (hv : IsVersion v) (e : Level) :
    dataCodewords v e + blockDegree v e * blockCount v e = totalCodewords v := by
  obtain ⟨-, -, -, hcap⟩ := capacityFigures_bounds hv e
  have hdata := dataCapacityBits_eq v e
  rw [dataCapacityBits, totalDataBits_eq, Nat.mul_assoc] at hdata hcap
  omega

theorem State.read_augmentInto (s : State) {v a : Nat} (hv : IsVersion v) (e : Level)
    (h : ¬ (ilbBase ≤ a ∧ a < ilbBase + totalCodewords v)) : (s.augmentInto v e).mem.read a = s.mem.read a := by
  refine Memory.read_writeBytes_outside _ ?_
  obtain ⟨hblocks, -⟩ := codewords_le v hv e
  rwa [length_interleave _ _ _ _ hblocks, State.length_readBytes, totalCodewords_eq hv]

/-- The pipeline writes the codewords and squares of its version (R151). -/
theorem State.read_generateInto (s : State) {v a : Nat} {e : Level} (hv : IsVersion v) (mo : Mode) (data : List Byte)
    (c : Choice Nat) (hcwb : ¬ (cwbBase ≤ a ∧ a < cwbBase + dataCodewords v e))
    (hilb : ¬ (ilbBase ≤ a ∧ a < ilbBase + totalCodewords v)) (hmtx : ¬ InMtxSquare (sideOf v) a)
    (hrsv : ¬ InRsvSquare (sideOf v) a) : (s.generateInto v e mo data c).mem.read a = s.mem.read a := by
  obtain ⟨s', hs'⟩ : ∃ s', ((s.needTables.packInto v e mo data).augmentInto v e) = s' := ⟨_, rfl⟩
  have hversion : (s'.buildBaseInto v).version = v := by
    unfold IsVersion at hv
    simp only [State.version, State.buildBaseInto, BitVec.toNat_ofNat]
    omega
  have hver : (s'.buildBaseInto v).version ≤ 40 := hversion.le.trans hv.2
  have hsquare : ¬ InMtxSquare (s'.buildBaseInto v).side a := by rwa [State.side_eq, hversion]
  rw [State.generateInto, hs']
  calc ((s'.buildBaseInto v).placeInto.selectMask e c).mem.read a
      = (s'.buildBaseInto v).placeInto.mem.read a :=
        State.read_selectMask (s := (s'.buildBaseInto v).placeInto) hver e c
          (not_isDataCell_of_not_inMtxSquare hsquare) fun h => hsquare h.1
    _ = (s'.buildBaseInto v).mem.read a := State.read_placeInto hver (not_isDataCell_of_not_inMtxSquare hsquare)
    _ = s'.mem.read a := s'.read_buildBaseInto hv hmtx hrsv
    _ = (s.needTables.packInto v e mo data).mem.read a := hs' ▸ State.read_augmentInto _ hv e hilb
    _ = s.mem.read a := State.read_packInto _ mo data hcwb

/-! ## The commands -/

theorem read_of_execValidate {s t : State} {mode : BitVec 4} {a : Nat} (h : execValidate mode s = .next t)
    (ha : ¬ (ibufBase ≤ a ∧ a < ibufBase + s.len.toNat)) : t.mem.read a = s.mem.read a := by
  cases hc : modeChoice mode with
  | none =>
    simp only [execValidate, hc] at h
    cases h
    rfl
  | some c =>
    rw [execValidate_eq s hc] at h
    split at h
    · cases h
      rfl
    next hlen =>
    split at h
    · cases h
      rfl
    · cases h
      exact (s.read_validatedMem (by omega) _ a).trans (if_neg fun ⟨_, _, h1, h2, _⟩ => ha ⟨h1, h2⟩)

theorem read_of_execPack {s t : State} {ecc : BitVec 3} {ver : BitVec 6} {mode : BitVec 4} {a : Nat}
    (h : execPack ecc ver mode s = .next t) (ha : ¬ MayWrite (.pack ecc ver mode) s a) :
    t.mem.read a = s.mem.read a := by
  unfold execPack at h
  split at h
  · cases h; rfl
  split at h
  · cases h; rfl
  dsimp only at h
  split at h
  · cases h; rfl
  split at h
  · cases h; rfl
  next e he =>
  split at h
  · cases h; rfl
  next v hv =>
  split at h
  · cases h; rfl
  · cases h
    obtain ⟨rfl, -⟩ := (versionOf_eq_some_iff ver v).mp hv
    exact State.read_packInto _ _ _ fun hin => ha ⟨e, he, hin⟩

theorem read_of_execGenerate {s t : State} {ecc : BitVec 3} {ver : BitVec 6} {mode mask : BitVec 4} {a : Nat}
    (h : execGenerate ecc ver mode mask s = .next t) (ha : ¬ MayWrite (.generate ecc ver mode mask) s a) :
    t.mem.read a = s.mem.read a := by
  unfold execGenerate at h
  split at h
  · cases h; rfl
  next cm hcm =>
  split at h
  · cases h; rfl
  dsimp only at h
  split at h
  · cases h; rfl
  split at h
  · cases h; rfl
  next e he =>
  rw [resolveMode_of_modeChoice hcm] at h
  split at h
  · cases h; rfl
  next v hv =>
  split at h
  · cases h; rfl
  · cases h
    exact State.read_generateInto _ (resolveVersion_eq_ok hv) _ _ _ (fun hin => ha ⟨e, v, he, hv, .inl hin⟩)
      (fun hin => ha ⟨e, v, he, hv, .inr (.inl hin)⟩) (fun hin => ha ⟨e, v, he, hv, .inr (.inr (.inl hin))⟩)
      fun hin => ha ⟨e, v, he, hv, .inr (.inr (.inr hin))⟩

/-- Settles O30: an error writes nothing, and the effect of each command only what its operations write. -/
theorem memoryACommandLeavesAlone : Obligations.MemoryACommandLeavesAlone := by
  intro i s t a hver h ha
  obtain ⟨n, e, rfl⟩ | ⟨u, hu, rfl⟩ := exec_cases h
  · rfl
  cases hu with
  | nop | tblinit | gfmul | gfexp | gflog | genrd | capq | bchq | score => rfl
  | validate => exact read_of_execValidate h ha
  | pack => exact read_of_execPack h ha
  | rsrem => exact Memory.read_writeBytes_outside _ (by rwa [length_remainder])
  | augment v e x y z w hv =>
    obtain ⟨rfl, hv⟩ := (versionOf_eq_some_iff _ v).mp hv
    exact s.read_augmentInto hv e ha
  | buildbase v x y hv =>
    obtain ⟨rfl, hv⟩ := (versionOf_eq_some_iff _ v).mp hv
    exact s.read_buildBaseInto hv (fun h => ha (.inl h)) fun h => ha (.inr h)
  | place => exact State.read_placeInto hver ha
  | applymask m => exact State.read_maskInto hver m ha
  | writefmt e m => exact State.read_formatInto hver e m fun h => ha h.2
  | select e c => exact State.read_selectMask hver e c (fun h => ha (.inl h)) fun h => ha (.inr h.2)
  | generate => exact read_of_execGenerate h ha

end Sys2Proof.Machine
end

section
/-! SUPPORT. The remainder (43_ecc.md R116, R117): each step of the long division is a step of the K-stage register,
which holds what the division has added to the bytes still to come. -/

namespace Sys2Proof.Machine

open Sys2Proof.Claims

/-! ## Adding to the first bytes -/

@[simp] theorem xorPrefix_nil_right (l : List Byte) : xorPrefix l [] = l := by cases l <;> rfl

theorem xorPrefix_cons_left (b : Byte) (l reg : List Byte) :
    xorPrefix (b :: l) reg = (b ^^^ reg.headD 0) :: xorPrefix l reg.tail := by
  cases reg with
  | nil => simp
  | cons r reg => rfl

theorem xorPrefix_replicate_zero (l : List Byte) (n : Nat) : xorPrefix l (List.replicate n 0) = l := by
  induction l generalizing n with
  | nil => cases n <;> rfl
  | cons b l ih =>
    cases n with
    | zero => rfl
    | succ n => exact congrArg₂ List.cons BitVec.xor_zero (ih n)

theorem xorPrefix_zeros_left (reg : List Byte) : xorPrefix (List.replicate reg.length 0) reg = reg := by
  induction reg with
  | nil => rfl
  | cons r reg ih => exact congrArg₂ List.cons BitVec.zero_xor ih

/-- Two additions are one of the sum, the shorter addend filled up with a zero. -/
theorem xorPrefix_xorPrefix (l : List Byte) {a c : List Byte} (h : c.length = a.length + 1) :
    xorPrefix (xorPrefix l a) c = xorPrefix l ((a ++ [0]).zipWith (· ^^^ ·) c) := by
  induction a generalizing l c with
  | nil =>
    obtain ⟨x, rfl⟩ := List.length_eq_one_iff.mp h
    simp
  | cons y a ih =>
    obtain ⟨x, c, rfl⟩ := List.exists_cons_of_length_eq_add_one h
    cases l with
    | nil => rfl
    | cons b l => simp [xorPrefix, ih l (Nat.succ_inj.mp h), BitVec.xor_assoc]

/-! ## One step -/

theorem length_generatorCoefs {k : Nat} (hk : k ≤ 30) : (generatorCoefs k).length = k := by
  rw [generatorCoefs, List.length_map, length_genAt_builtTables, if_pos hk]

/-- The generator scaled by a leading coefficient that is not 0 is its product with it (R78, R116). -/
theorem scaledGen_logAt {f : Byte} (hf : f ≠ 0) (k : Nat) :
    scaledGen builtTables (builtTables.logAt f).toNat (builtTables.genAt k) =
      (generatorCoefs k).map (fieldProduct f) := by
  rw [scaledGen, generatorCoefs, List.map_map]
  refine List.map_congr_left fun x _ => ?_
  calc builtTables.expAt (((builtTables.logAt f).toNat + x.toNat) % 255)
    _ = alphaPow (x.toNat + (builtTables.logAt f).toNat) := by
      rw [GfTables.expAt_eq_alphaPow rfl (Nat.mod_lt _ (by decide)), alphaPow_mod, Nat.add_comm]
    _ = fieldProduct f (alphaPow x.toNat) := by
      rw [← iterate_timesX_alphaPow, GfTables.alphaPow_logAt rfl hf, fieldProduct_alphaPow]

/-- A step of the division adds the product of the leading coefficient with the generator; for the coefficient 0,
whose logarithm is not defined, that product is 0 (R116). -/
theorem divSteps_succ_cons (k n : Nat) (f : Byte) (rest : List Byte) :
    divSteps builtTables (builtTables.genAt k) (n + 1) (f :: rest) =
      divSteps builtTables (builtTables.genAt k) n (xorPrefix rest ((generatorCoefs k).map (fieldProduct f))) := by
  refine congrArg (divSteps builtTables (builtTables.genAt k) n) ?_
  by_cases hf : f = 0
  · subst hf
    have hzeros : (generatorCoefs k).map (fieldProduct 0) = List.replicate (generatorCoefs k).length 0 :=
      List.map_eq_replicate_iff.mpr fun x _ => zero_fieldProduct x
    rw [hzeros, xorPrefix_replicate_zero]
    exact if_pos (GfTables.logAt_zero rfl)
  · have hlog : builtTables.logAt f ≠ 0xFF := fun h =>
      absurd (GfTables.toNat_logAt_lt (t := builtTables) rfl hf) (by rw [h]; decide)
    exact (if_neg hlog).trans (by rw [scaledGen_logAt hf])

theorem length_registerStep {g reg : List Byte} (hreg : reg.length = g.length) (hg : 0 < g.length) (b : Byte) :
    (registerStep g reg b).length = g.length := by
  rw [registerStep, List.length_zipWith, List.length_append, List.length_drop, List.length_map, List.length_singleton]
  omega

/-! ## The two forms -/

/-- What the division leaves of a block to whose first bytes the register was added is what the register becomes
along the block (R117). -/
theorem divSteps_eq_foldl_registerStep {k : Nat} (h1 : 1 ≤ k) (hk : k ≤ 30) (blk : List Byte) {reg : List Byte}
    (hreg : reg.length = k) :
    divSteps builtTables (builtTables.genAt k) blk.length (xorPrefix (blk ++ List.replicate k 0) reg) =
      blk.foldl (registerStep (generatorCoefs k)) reg := by
  have hlen := length_generatorCoefs hk
  induction blk generalizing reg with
  | nil =>
    subst hreg
    rw [List.nil_append, xorPrefix_zeros_left]
    rfl
  | cons b blk ih =>
    have hsum : xorPrefix (xorPrefix (blk ++ List.replicate k 0) reg.tail)
          ((generatorCoefs k).map (fieldProduct (b ^^^ reg.headD 0))) =
        xorPrefix (blk ++ List.replicate k 0) (registerStep (generatorCoefs k) reg b) := by
      rw [xorPrefix_xorPrefix _ (by rw [List.length_map, List.length_tail]; omega), registerStep, List.drop_one]
    rw [List.cons_append, xorPrefix_cons_left, List.length_cons, divSteps_succ_cons, hsum, List.foldl_cons,
      ih ((length_registerStep (by omega) (by omega) b).trans hlen)]

/-- The division and the register give the same remainder (R117). -/
theorem remainder_eq_streamedRemainder {k : Nat} (h1 : 1 ≤ k) (hk : k ≤ 30) (blk : List Byte) :
    remainder builtTables k blk = streamedRemainder k blk := by
  rw [remainder, streamedRemainder, ← divSteps_eq_foldl_registerStep h1 hk blk List.length_replicate,
    xorPrefix_replicate_zero]

theorem length_streamedRemainder {k : Nat} (h1 : 1 ≤ k) (hk : k ≤ 30) (blk : List Byte) :
    (streamedRemainder k blk).length = k := by
  rw [← remainder_eq_streamedRemainder h1 hk, length_remainder]

/-! ## RSREM -/

theorem Memory.read_writeBytes_at (m : Memory) (base : Nat) {bs : List Byte} {i : Nat} (hi : i < bs.length) :
    (m.writeBytes base bs).read (base + i) = bs[i]? := by
  rw [Memory.read_writeBytes, if_pos (by omega), Nat.add_sub_cancel_left, List.getD_eq_getElem _ _ hi,
    List.getElem?_eq_getElem hi]

theorem State.remLen_eq (s : State) : s.remLen = s.argB.toNat % 2 ^ 16 := by simp [State.remLen]

theorem State.remDegree_eq (s : State) : s.remDegree = s.argB.toNat / 2 ^ 16 % 2 ^ 8 := by
  rw [State.remDegree, BitVec.extractLsb'_toNat, Nat.shiftRight_eq_div_pow]

theorem State.remTop_eq (s : State) : s.remTop = s.argB.toNat / 2 ^ 24 % 2 ^ 8 := by
  rw [State.remTop, BitVec.extractLsb'_toNat, Nat.shiftRight_eq_div_pow]

/-- The check of RSREM, on the two registers (R120). -/
theorem State.remInRange_iff (s : State) :
    (s.remStart ≤ 4095 ∧ s.remTop = 0 ∧ 1 ≤ s.remDegree ∧ s.remDegree ≤ 30 ∧ s.remStart + s.remLen ≤ cwbSize) ↔
      s.argA.toNat ≤ 4095 ∧ s.argB.toNat < 2 ^ 24 ∧ 1 ≤ s.argB.toNat / 2 ^ 16 ∧ s.argB.toNat / 2 ^ 16 ≤ 30 ∧
        s.argA.toNat + s.argB.toNat % 2 ^ 16 ≤ 4096 := by
  have hword := s.argB.isLt
  rw [State.remTop_eq, State.remDegree_eq, State.remLen_eq, State.remStart, cwbSize]
  omega

/-- What RSREM of operands in range does (R120), with the remainder in its streaming form. -/
theorem exec_rsrem_eq {s : State} (h : s.TablesInv) (hstart : s.argA.toNat ≤ 4095) (hword : s.argB.toNat < 2 ^ 24)
    (h1 : 1 ≤ s.argB.toNat / 2 ^ 16) (h30 : s.argB.toNat / 2 ^ 16 ≤ 30)
    (hend : s.argA.toNat + s.argB.toNat % 2 ^ 16 ≤ 4096) :
    exec .rsrem s = .next { completed s with
      res0 := BitVec.ofNat 32 (s.argB.toNat / 2 ^ 16)
      tables := some builtTables
      mem := s.mem.writeBytes eccbBase (streamedRemainder (s.argB.toNat / 2 ^ 16)
        (s.readBytes (cwbBase + s.argA.toNat) (s.argB.toNat % 2 ^ 16)))
      draws := s.draws + s.argB.toNat % 2 ^ 16 } := by
  have hdegree : s.remDegree = s.argB.toNat / 2 ^ 16 := by
    rw [s.remDegree_eq]
    omega
  rw [exec, execRsrem, if_pos (s.remInRange_iff.mpr ⟨hstart, hword, h1, h30, hend⟩), State.needTables, h.gf_eq,
    hdegree, s.remLen_eq, ← remainder_eq_streamedRemainder h1 h30]
  rfl

/-- Settles O44: the remainder stored in ECCB is that of the division, which the register gives too. -/
theorem rsremWritesTheRemainder : Obligations.RsremWritesTheRemainder := by
  refine ⟨fun s hrange => ?_, fun s h hstart hword h1 h30 hend => ⟨_, exec_rsrem_eq h hstart hword h1 h30 hend, rfl,
    fun j hj => Memory.read_writeBytes_at _ _ ?_, fun a ha => Memory.read_writeBytes_outside _ ?_⟩⟩
  · rw [exec, execRsrem, if_neg (by rw [s.remInRange_iff]; omega)]
    rfl
  · rwa [length_streamedRemainder h1 h30]
  · rw [length_streamedRemainder h1 h30]
    omega

end Sys2Proof.Machine
end

section
/-! SUPPORT. The interleave (43_ecc.md R118, R119): which codeword each place of the final order holds. -/

namespace Sys2Proof.Machine

open Sys2Proof.Claims

/-! ## Columns -/

theorem columns_succ (n : Nat) (rows : List (List Byte)) :
    columns (n + 1) rows = columns n rows ++ rows.map fun row => row.getD n 0 := by
  simp [columns, List.range_succ]

theorem columnPlace_lt {i n j b : Nat} (hi : i < n) (hj : j < b) : i * b + j < n * b := by
  have hrows : (i + 1) * b ≤ n * b := Nat.mul_le_mul_right _ hi
  rw [Nat.succ_mul] at hrows
  omega

/-- Column `i` holds byte `i` of each row in turn. -/
theorem getElem?_columns {rows : List (List Byte)} {row : List Byte} {n i j : Nat} (hi : i < n)
    (hj : rows[j]? = some row) : (columns n rows)[i * rows.length + j]? = some (row.getD i 0) := by
  induction n with
  | zero => omega
  | succ n ih =>
    have hlen := (List.getElem?_eq_some_iff.mp hj).1
    rw [columns_succ]
    obtain hlt | rfl := Nat.lt_succ_iff_lt_or_eq.mp hi
    · rw [List.getElem?_append_left (by rw [length_columns]; exact columnPlace_lt hlt hlen), ih hlt]
    · rw [List.getElem?_append_right (by rw [length_columns]; omega), length_columns, Nat.add_sub_cancel_left,
        List.getElem?_map, hj, Option.map_some]

/-! ## Blocks -/

/-- Each block lies in the codewords (R118). -/
theorem blockStart_add_blockSize_le {b j : Nat} (hj : j < b) (d : Nat) : blockStart d b j + blockSize d b j ≤ d := by
  have hdiv := Nat.div_add_mod' d b
  have hmod := Nat.mod_lt d (Nat.zero_lt_of_lt hj)
  have hshort : (j + 1) * (d / b) ≤ b * (d / b) := Nat.mul_le_mul_right _ hj
  rw [Nat.succ_mul, Nat.mul_comm b] at hshort
  unfold blockStart blockSize shortSize pivotOf
  split <;> omega

theorem shortSize_le_blockSize (d b j : Nat) : shortSize d b ≤ blockSize d b j := Nat.le_add_right ..

/-- The blocks from the pivot on have a trailing byte (R118). -/
theorem shortSize_lt_blockSize {d b j : Nat} (hpivot : pivotOf d b ≤ j) : shortSize d b < blockSize d b j := by
  rw [blockSize, if_pos hpivot]
  exact Nat.lt_succ_self _

section

variable {cw : List Byte} {d b j : Nat}

/-- The bytes of a block are those of the codewords from its start on (R118). -/
theorem getD_blockOf (hd : cw.length = d) (hj : j < b) {i : Nat} (hi : i < blockSize d b j) :
    some ((blockOf cw b j).getD i 0) = cw[blockStart d b j + i]? := by
  have hend := blockStart_add_blockSize_le hj d
  have hlt : blockStart d b j + i < cw.length := by omega
  rw [List.getD_eq_getElem?_getD, blockOf, hd, List.getElem?_take_of_lt hi, List.getElem?_drop,
    List.getElem?_eq_getElem hlt]
  rfl

@[simp] theorem length_blocksOf : (blocksOf cw b).length = b := by simp [blocksOf]

theorem getElem?_blocksOf (hj : j < b) : (blocksOf cw b)[j]? = some (blockOf cw b j) := by
  rw [blocksOf, List.getElem?_map, List.getElem?_range hj]
  rfl

/-! ## The three parts of the final order -/

variable {t : GfTables} {k i : Nat}

/-- The data columns (R119). -/
theorem getElem?_interleave_column (hd : cw.length = d) (hi : i < shortSize d b) (hj : j < b) :
    (interleave t cw b k)[i * b + j]? = some ((blockOf cw b j).getD i 0) := by
  have hcolumn := getElem?_columns (rows := blocksOf cw b) hi (getElem?_blocksOf hj)
  rw [length_blocksOf] at hcolumn
  rw [interleave, hd, List.append_assoc, List.getElem?_append_left, hcolumn]
  rw [length_columns, length_blocksOf]
  exact columnPlace_lt hi hj

/-- The trailing bytes of the longer blocks (R119). -/
theorem getElem?_interleave_trailing (hd : cw.length = d) (hpivot : pivotOf d b ≤ j) (hj : j < b) :
    (interleave t cw b k)[shortSize d b * b + (j - pivotOf d b)]? =
      some ((blockOf cw b j).getD (shortSize d b) 0) := by
  rw [interleave, hd, List.append_assoc, List.getElem?_append_right (by simp), length_columns, length_blocksOf,
    Nat.add_sub_cancel_left,
    List.getElem?_append_left (by rw [List.length_map, List.length_drop, length_blocksOf]; omega),
    List.getElem?_map, List.getElem?_drop, Nat.add_sub_cancel' hpivot, getElem?_blocksOf hj, Option.map_some]

/-- The data bytes fill the places before the remainders (R119). -/
theorem length_interleave_data (hd : cw.length = d) (hb : 0 < b) :
    (columns (shortSize d b) (blocksOf cw b) ++
      ((blocksOf cw b).drop (pivotOf d b)).map fun blk => blk.getD (shortSize d b) 0).length = d := by
  have hlen := length_interleave builtTables cw b 0 hb
  rwa [interleave, List.length_append, length_columns, Nat.zero_mul, Nat.zero_mul, hd] at hlen

/-- The remainder columns (R119). -/
theorem getElem?_interleave_remainder (hd : cw.length = d) (hi : i < k) (hj : j < b) :
    (interleave t cw b k)[d + i * b + j]? = some ((remainder t k (blockOf cw b j)).getD i 0) := by
  have hdata := length_interleave_data hd (Nat.zero_lt_of_lt hj)
  have hrow : ((blocksOf cw b).map (remainder t k))[j]? = some (remainder t k (blockOf cw b j)) := by
    rw [List.getElem?_map, getElem?_blocksOf hj, Option.map_some]
  have hcolumn := getElem?_columns hi hrow
  rw [List.length_map, length_blocksOf] at hcolumn
  rw [interleave, hd, List.getElem?_append_right (by omega), hdata, Nat.add_assoc, Nat.add_sub_cancel_left, hcolumn]

end

/-! ## AUGMENT -/

theorem Memory.read_writeBytes_of_getElem? (m : Memory) {base i : Nat} {bs : List Byte} {x : Byte}
    (h : bs[i]? = some x) : (m.writeBytes base bs).read (base + i) = some x :=
  (m.read_writeBytes_at base (List.getElem?_eq_some_iff.mp h).1).trans h

/-- What AUGMENT with legal fields does (R121). -/
theorem exec_augment_eq {s : State} (h : s.TablesInv) {ecc : BitVec 3} {ver : BitVec 6} {e : Level}
    (hecc : levelOf ecc = some e) (hver : IsVersion ver.toNat) :
    exec (.augment ecc ver) s = .next { completed s with
      res0 := BitVec.ofNat 32 (totalCodewords ver.toNat)
      res1 := BitVec.ofNat 32 (blockCount ver.toNat e)
      res2 := BitVec.ofNat 32 (blockDegree ver.toNat e)
      res3 := BitVec.ofNat 32 (pivotOf (dataCodewords ver.toNat e) (blockCount ver.toNat e))
      tables := some builtTables
      mem := s.mem.writeBytes ilbBase (interleave builtTables (s.readBytes cwbBase (dataCodewords ver.toNat e))
        (blockCount ver.toNat e) (blockDegree ver.toNat e))
      draws := s.draws + dataCodewords ver.toNat e } := by
  rw [← totalCodewords_eq hver e, Nat.mul_comm]
  simp only [exec, execAugment, hecc, versionOf_eq_toNat hver, State.augmentInto, State.needTables, h.gf_eq]
  rfl

/-- AUGMENT checks ECC, then VER (R121). -/
theorem exec_augment_failed (s : State) (ecc : BitVec 3) (ver : BitVec 6) :
    (3 < ecc.toNat → exec (.augment ecc ver) s = .next (failed s .invalidECCLevel)) ∧
    (ecc.toNat ≤ 3 → ¬ IsVersion ver.toNat → exec (.augment ecc ver) s = .next (failed s .invalidVersion)) := by
  refine ⟨fun hecc => ?_, fun hecc hver => ?_⟩
  · simp only [exec, execAugment, (levelOf_eq_none_iff ecc).mpr hecc]
    rfl
  · obtain ⟨e, he⟩ := exists_levelOf hecc
    simp only [exec, execAugment, he, (versionOf_eq_none_iff ver).mpr hver]
    rfl

/-- Every degree of VROM has a generator (R89). -/
theorem blockDegree_bounds {v : Nat} (hv : IsVersion v) (e : Level) : 1 ≤ blockDegree v e ∧ blockDegree v e ≤ 30 := by
  have htable : ∀ v ∈ List.range' 1 40, ∀ e ∈ [Level.m, .l, .h, .q], 1 ≤ blockDegree v e ∧ blockDegree v e ≤ 30 := by
    decide +kernel
  exact htable v (by rw [List.mem_range'_1]; unfold IsVersion at hv; omega) e (by cases e <;> simp)

/-- Settles O45: the bytes stored in ILB are the three parts of the interleave, each byte at its place. -/
theorem augmentInterleavesTheBlocks : Obligations.AugmentInterleavesTheBlocks := by
  refine ⟨exec_augment_failed, fun s ecc ver e h hecc hver => ?_⟩
  intro d b k cw short pivot start size
  have hcw : cw.length = d := s.length_readBytes cwbBase d
  obtain ⟨h1, h30⟩ := blockDegree_bounds hver e
  refine ⟨_, exec_augment_eq h ((levelOf_eq_some_iff ecc e).mpr hecc) hver, rfl, fun i j hi hj => ?_,
    fun j hpivot hj => ?_, fun i j hi hj => ?_, fun a ha => Memory.read_writeBytes_outside _ ?_⟩
  · rw [Nat.add_assoc]
    exact (s.mem.read_writeBytes_of_getElem? (getElem?_interleave_column hcw hi hj)).trans
      (getD_blockOf hcw hj (hi.trans_le (shortSize_le_blockSize d b j)))
  · rw [Nat.add_assoc]
    exact (s.mem.read_writeBytes_of_getElem? (getElem?_interleave_trailing hcw hpivot hj)).trans
      (getD_blockOf hcw hj (shortSize_lt_blockSize hpivot))
  · have hblock : (cw.drop (start j)).take (size j) = blockOf cw b j := by
      rw [blockOf, hcw]
      rfl
    have hbyte : (remainder builtTables k (blockOf cw b j))[i]? =
        some ((remainder builtTables k (blockOf cw b j)).getD i 0) := by
      rw [List.getD_eq_getElem _ _ (by rwa [length_remainder]), ← List.getElem?_eq_getElem]
    rw [Nat.add_assoc ilbBase, Nat.add_assoc ilbBase, hblock, ← remainder_eq_streamedRemainder h1 h30, hbyte]
    exact s.mem.read_writeBytes_of_getElem? (getElem?_interleave_remainder hcw hi hj)
  · rw [length_interleave _ _ _ _ (codewords_le _ hver e).1, s.length_readBytes, totalCodewords_eq hver]
    omega

end Sys2Proof.Machine
end

section
/-! SUPPORT. The order of the placement scan (44_matrix.md R129): the column pairs in closed form, and the places of
all cells outside column 6, which run through 0, 1, 2, ... in scan order. -/

namespace Sys2Proof.Machine

open Sys2Proof.Claims

/-! ## The column pairs -/

/-- Column pair `k` from the right edge: its right column, column 6 left out, and whether it runs upward (R129). -/
def pairAt (n k : Nat) : Nat × Bool :=
  (if n - 1 - 2 * k ≤ 6 then n - 2 - 2 * k else n - 1 - 2 * k, decide (k % 2 = 0))

section

variable {n : Nat} (hodd : n % 2 = 1) (hn : 9 ≤ n)

include hodd hn

/-- From pair `k` on the scan takes the pairs in order down to columns 1 and 0. -/
theorem scanPairs_eq_map_pairAt {fuel k c : Nat} (hk : k < (n - 1) / 2) (hfuel : n - 1 ≤ 2 * (fuel + k))
    (hc : (if c = 6 then 5 else c) = (pairAt n k).1) :
    scanPairs fuel c (decide (k % 2 = 0)) = (List.range' k ((n - 1) / 2 - k)).map (pairAt n) := by
  induction fuel generalizing k c with
  | zero => omega
  | succ fuel ih =>
    obtain ⟨rest, hrest⟩ : ∃ rest, (n - 1) / 2 - k = rest + 1 := ⟨_, (Nat.sub_add_cancel (by omega)).symm⟩
    have hcol : (pairAt n k).1 < 2 ↔ rest = 0 := by
      unfold pairAt
      split <;> omega
    rw [hrest, List.range'_succ, List.map_cons, scanPairs, hc]
    refine congrArg _ ?_
    split
    · next hlast => rw [hcol.mp hlast]; rfl
    · next hmore =>
      have hflip : (!decide (k % 2 = 0)) = decide ((k + 1) % 2 = 0) := by
        rw [← decide_not, decide_eq_decide]
        omega
      have hnext : (if (pairAt n k).1 - 2 = 6 then 5 else (pairAt n k).1 - 2) = (pairAt n (k + 1)).1 := by
        unfold pairAt
        dsimp only
        split <;> split <;> split <;> omega
      rw [hflip, ih (by omega) (by omega) hnext]
      congr 2
      omega

/-- The scan's column pairs are pairs 0, 1, 2, ... from the right edge. -/
theorem scanPairs_eq : scanPairs n (n - 1) true = (List.range ((n - 1) / 2)).map (pairAt n) := by
  have hfirst : (if n - 1 = 6 then 5 else n - 1) = (pairAt n 0).1 := by
    unfold pairAt
    dsimp only
    split <;> split <;> omega
  have h := scanPairs_eq_map_pairAt hodd hn (fuel := n) (k := 0) (by omega) (by omega) hfirst
  simpa [List.range_eq_range'] using h

/-! ## The places of the cells -/

/-- The two cells of a row of pair `k`, the right one first, have consecutive places. -/
theorem scanRank_pairAt {k t : Nat} (hk : k < (n - 1) / 2) (ht : t < n) {r : Nat}
    (hr : r = if (pairAt n k).2 then n - 1 - t else t) :
    scanRank n (r, (pairAt n k).1) = 2 * (n * k + t) ∧ scanRank n (r, (pairAt n k).1 - 1) = 2 * (n * k + t) + 1 := by
  have hright : (if (pairAt n k).1 < 6 then n - 2 - (pairAt n k).1 else n - 1 - (pairAt n k).1) = 2 * k := by
    unfold pairAt
    dsimp only
    split <;> split <;> omega
  have hleft : (if (pairAt n k).1 - 1 < 6 then n - 2 - ((pairAt n k).1 - 1) else n - 1 - ((pairAt n k).1 - 1)) =
      2 * k + 1 := by
    unfold pairAt
    dsimp only
    split <;> split <;> omega
  have hrow : (if k % 2 = 0 then n - 1 - r else r) = t := by
    subst hr
    simp only [pairAt, decide_eq_true_eq]
    split <;> omega
  have hpair : (2 * k + 1) / 2 = k := by omega
  have hside : (2 * k + 1) % 2 = 1 := by omega
  simp only [scanRank, hright, hleft, hpair, hside, Nat.mul_div_cancel_left k Nat.two_pos, Nat.mul_mod_right, hrow,
    Nat.add_zero, and_self]

end

/-- Consecutive stretches of `m` numbers make one stretch. -/
theorem flatMap_range'_mul (m a len : Nat) :
    ((List.range' a len).flatMap fun k => List.range' (m * k) m) = List.range' (m * a) (m * len) := by
  induction len generalizing a with
  | zero => rfl
  | succ len ih =>
    rw [List.range'_succ, List.flatMap_cons, ih, Nat.mul_succ m a, List.range'_append_1, Nat.mul_succ, Nat.add_comm m]

/-- The places of all cells outside column 6, in scan order, are 0, 1, 2, ... (R129). -/
theorem map_scanRank_allCells {n : Nat} (hodd : n % 2 = 1) (hn : 9 ≤ n) :
    ((scanPairs n (n - 1) true).flatMap (pairCells n)).map (scanRank n) = List.range (2 * n * ((n - 1) / 2)) := by
  have hpair : ∀ k ∈ List.range ((n - 1) / 2),
      (pairCells n (pairAt n k)).map (scanRank n) = List.range' (2 * n * k) (2 * n) := fun k hk => by
    have hrow : ∀ t ∈ List.range n, List.map (scanRank n)
        (let r := if (pairAt n k).2 then n - 1 - t else t
         [(r, (pairAt n k).1), (r, (pairAt n k).1 - 1)]) = List.range' (2 * (n * k + t)) 2 := fun t ht => by
      obtain ⟨hright, hleft⟩ := scanRank_pairAt hodd hn (List.mem_range.mp hk) (List.mem_range.mp ht) rfl
      simp only [List.map_cons, hright, hleft]
      rfl
    calc (pairCells n (pairAt n k)).map (scanRank n)
      _ = (List.range n).flatMap fun t => List.range' (2 * (n * k + t)) 2 := by
        rw [pairCells, List.map_flatMap]
        exact List.flatMap_congr hrow
      _ = (List.range' (n * k) n).flatMap fun x => List.range' (2 * x) 2 := by
        rw [List.range'_eq_map_range, List.flatMap_map]
      _ = List.range' (2 * n * k) (2 * n) := by rw [flatMap_range'_mul, Nat.mul_assoc]
  rw [scanPairs_eq hodd hn, List.map_flatMap, List.flatMap_map, List.flatMap_congr hpair, List.range_eq_range',
    flatMap_range'_mul, Nat.mul_zero, ← List.range_eq_range']

/-! ## The scan -/

/-- The scan yields its cells in the order of their places (R129). -/
theorem pairwise_scanCells (v : Nat) (rsv : List (List Bool)) :
    (scanCells (4 * v + 17) rsv).Pairwise fun x y => scanRank (4 * v + 17) x < scanRank (4 * v + 17) y := by
  refine List.Pairwise.filter _ (List.pairwise_map.mp ?_)
  rw [map_scanRank_allCells (by omega) (by omega)]
  exact List.pairwise_lt_range

/-- The scan yields no cell twice. -/
theorem nodup_scanCells (v : Nat) (rsv : List (List Bool)) : (scanCells (4 * v + 17) rsv).Nodup :=
  (pairwise_scanCells v rsv).imp fun hlt heq => by rw [heq] at hlt; exact Nat.lt_irrefl _ hlt

/-- Settles O48: the places of the scanned cells rise, and the cells of every free place are scanned. -/
theorem scanVisitsEachFreeCellOnce : Obligations.ScanVisitsEachFreeCellOnce := by
  intro v rsv _ h6
  refine ⟨nodup_scanCells v rsv, pairwise_scanCells v rsv, fun r c => ⟨free_of_mem_scanCells, ?_⟩⟩
  rintro ⟨hr, hc, hfree⟩
  have hcol : c ≠ 6 := by
    rintro rfl
    rw [h6 r hr] at hfree
    cases hfree
  exact mem_scanCells (v := v) hr hc hcol hfree

end Sys2Proof.Machine
end

section
/-! SUPPORT. BUILDBASE and PLACE cell by cell (44_matrix.md R128, R130, R132, R133). -/

namespace Sys2Proof.Machine

open Sys2Proof.Claims

/-! ## BUILDBASE -/

/-- What BUILDBASE of a version does (R132). -/
theorem exec_buildbase_eq (s : State) {ver : BitVec 6} (hver : IsVersion ver.toNat) :
    exec (.buildbase ver) s = .next { s.buildBaseInto ver.toNat with
      res0 := BitVec.ofNat 32 (sideOf ver.toNat)
      res1 := BitVec.ofNat 32 (rawModules ver.toNat) }.finish := by
  simp only [exec, execBuildbase, versionOf_eq_toNat hver]

section

variable (s : State) {v r c : Nat} (hv : IsVersion v) (hr : r < sideOf v) (hc : c < sideOf v)

include hv hr hc

/-- A cell of the base matrix takes its fixed pattern, or becomes unwritten (R128). -/
theorem State.read_buildBaseInto_mtx :
    (s.buildBaseInto v).mem.read (cellAddr mtxBase r c) = (baseCell v r c).map cellByte := by
  obtain ⟨-, hv40⟩ := hv
  have hn : sideOf v ≤ maxSide := by unfold sideOf maxSide; omega
  have hother : ∀ r' c', r' < sideOf v → c' < sideOf v → cellAddr mtxBase r c ≠ cellAddr rsvBase r' c' := by
    unfold cellAddr mtxBase rsvBase maxSide at *
    omega
  refine (Memory.read_mapSquare_of_kept _ hn fun r' c' hr' hc' haddr => absurd haddr (hother r' c' hr' hc')).trans ?_
  rw [Memory.read_mapSquare_cell _ _ _ _ _ _ (hn.trans (by decide)) hr hc,
    unlisted_mtx r c (hr.trans_le hn) (hc.trans_le hn), Option.or_none]

/-- A cell of the base matrix is reserved exactly where it has a fixed pattern (R128). -/
theorem State.read_buildBaseInto_rsv :
    (s.buildBaseInto v).mem.read (cellAddr rsvBase r c) = some (if (baseCell v r c).isSome then 1 else 0) := by
  obtain ⟨-, hv40⟩ := hv
  exact Memory.read_mapSquare_cell _ _ _ _ _ _ (by unfold sideOf; omega) hr hc

end

/-- Settles O46: the two squares hold the patterns and the mask of the version, all else is kept. -/
theorem buildbaseWritesTheFixedPatterns : Obligations.BuildbaseWritesTheFixedPatterns := by
  refine ⟨fun s ver hver => ?_, fun s ver hver => ⟨_, exec_buildbase_eq s hver, ?_, fun r c hr hc => ?_,
    fun a hmtx hrsv => ?_⟩⟩
  · simp only [exec, execBuildbase, (versionOf_eq_none_iff ver).mpr hver]
    rfl
  · have hmver : BitVec.ofNat 6 ver.toNat = ver := by simp
    simp only [State.buildBaseInto, hmver]
    rfl
  · exact ⟨s.read_buildBaseInto_mtx hver hr hc, s.read_buildBaseInto_rsv hver hr hc⟩
  · exact s.read_buildBaseInto hver hmtx hrsv

/-! ## The stream of PLACE -/

theorem length_streamBits (bs : List Byte) : (streamBits bs).length = 8 * bs.length := by
  simp [streamBits, streamBits.putBits8, List.length_flatMap, Nat.mul_comm]

/-- Bit `k` of the stream, 0 beyond it (20_memory.md R47). -/
theorem getD_streamBits (bs : List Byte) (k : Nat) : (streamBits bs).getD k false = bytesBit bs k := by
  induction bs generalizing k with
  | nil => simp [streamBits, bytesBit]
  | cons b bs ih =>
    change (streamBits.putBits8 b ++ streamBits bs).getD k false = _
    have hlen : (streamBits.putBits8 b).length = 8 := rfl
    by_cases hfirst : k < 8
    · rw [List.getD_append _ _ _ _ hfirst, bytesBit_cons_of_lt _ _ hfirst]
      simp [streamBits.putBits8, List.getD_eq_getElem?_getD, hfirst]
    · obtain ⟨k, rfl⟩ := Nat.exists_eq_add_of_le' (Nat.le_of_not_lt hfirst)
      rw [List.getD_append_right _ _ _ _ (by omega), hlen, Nat.add_sub_cancel, ih, bytesBit_cons_add]

/-- Only a bit of the bytes is 1. -/
theorem bytesBit_eq_true_iff (bs : List Byte) (k : Nat) :
    bytesBit bs k = true ↔ k < 8 * bs.length ∧ (bs.getD (k / 8) 0).getLsbD (7 - k % 8) = true := by
  refine ⟨fun hbit => ⟨?_, hbit⟩, And.right⟩
  by_contra hk
  rw [bytesBit, List.getD_eq_default _ _ (by omega)] at hbit
  simp at hbit

/-! ## PLACE -/

theorem cellAddr_inj {base r c r' c' : Nat} (hc : c < 256) (hc' : c' < 256)
    (h : cellAddr base r c = cellAddr base r' c') : r = r' ∧ c = c' := by
  unfold cellAddr at h
  omega

/-- Entry `k` of the placed cells: scanned cell `k` and its stream bit (R130). -/
theorem getElem?_placedBits {cells : List (Nat × Nat)} {k : Nat} {rc : Nat × Nat} (bits : List Bool)
    (h : cells[k]? = some rc) :
    (placedBits cells bits)[k]? = some (cellAddr mtxBase rc.1 rc.2, cellByte (bits.getD k false)) := by
  obtain ⟨hk, -⟩ := List.getElem?_eq_some_iff.mp h
  have hbit : (bits ++ List.replicate (cells.length - bits.length) false)[k]? = some (bits.getD k false) := by
    rw [← getD_append_replicate_false bits (cells.length - bits.length) k,
      List.getD_eq_getElem _ _ (by simp; omega), List.getElem?_eq_getElem]
  rw [placedBits, List.getElem?_zipWith, h, hbit]

/-- Of cells without repeats each gets its own stream bit (R130). -/
theorem lookup_placedBits {cells : List (Nat × Nat)} (hnodup : cells.Nodup) (hcol : ∀ rc ∈ cells, rc.2 < 256)
    {k : Nat} {rc : Nat × Nat} (bits : List Bool) (h : cells[k]? = some rc) :
    (placedBits cells bits).lookup (cellAddr mtxBase rc.1 rc.2) = some (cellByte (bits.getD k false)) := by
  obtain ⟨hk, hentry⟩ := List.getElem?_eq_some_iff.mp (getElem?_placedBits bits h)
  refine List.lookup_eq_some_iff.mpr ⟨(placedBits cells bits).take k, (placedBits cells bits).drop (k + 1), ?_, ?_⟩
  · rw [← hentry, List.cons_getElem_drop_succ, List.take_append_drop]
  · intro e he
    obtain ⟨i, hi, rfl⟩ := List.getElem_of_mem he
    rw [List.length_take] at hi
    have hik : i < k := by omega
    obtain ⟨hkc, rfl⟩ := List.getElem?_eq_some_iff.mp h
    have hentry' := getElem?_placedBits bits (List.getElem?_eq_getElem (hik.trans hkc))
    rw [List.getElem_take, bne_iff_ne, (List.getElem?_eq_some_iff.mp hentry').2]
    intro haddr
    have hcell := cellAddr_inj (hcol _ (List.getElem_mem hkc)) (hcol _ (List.getElem_mem _)) haddr
    exact hik.ne' ((hnodup.getElem_inj_iff).mp (Prod.ext hcell.1 hcell.2))

/-- What PLACE on a base matrix does (R133). -/
theorem exec_place_eq {s : State} (hbase : s.phase ≠ .empty) :
    exec .place s = .next { s.placeInto with
      res0 := BitVec.ofNat 32 (scanCells s.side s.reserved).length
      res1 := BitVec.ofNat 32 (min (scanCells s.side s.reserved).length (8 * totalCodewords s.version)) }.finish := by
  simp only [exec, execPlace, s.hasBase_iff.mpr hbase, if_true]
  rfl

section

variable {s : State} (hver : s.version ≤ 40)

include hver

/-- PLACE gives scanned cell `k` bit `k` of the codewords (R130, R133). -/
theorem State.read_placeInto_scanned {k : Nat} {rc : Nat × Nat} (h : (scanCells s.side s.reserved)[k]? = some rc) :
    s.placeInto.mem.read (cellAddr mtxBase rc.1 rc.2) =
      some (cellByte (bytesBit (s.readBytes ilbBase (totalCodewords s.version)) k)) := by
  have hside := s.side_le hver
  obtain ⟨hr, hc, -⟩ := free_of_mem_scanCells (List.mem_of_getElem? h)
  have hcol : ∀ rc ∈ scanCells s.side s.reserved, rc.2 < 256 := fun rc hrc => by
    obtain ⟨-, hc, -⟩ := free_of_mem_scanCells hrc
    unfold maxSide at hside
    omega
  have hnodup : (scanCells s.side s.reserved).Nodup := nodup_scanCells s.version s.reserved
  rw [State.placeInto_eq, read_mtx_mapSquare s _ hver _ _ hr hc, placeCell_eq, State.placedCells,
    lookup_placedBits hnodup hcol _ h, getD_streamBits, Option.some_or]
  rfl

/-- PLACE writes scanned cells only (R133). -/
theorem State.read_placeInto_of_not_scanned {a : Nat}
    (ha : ∀ rc ∈ scanCells s.side s.reserved, a ≠ cellAddr mtxBase rc.1 rc.2) :
    s.placeInto.mem.read a = s.mem.read a := by
  rw [State.placeInto_eq]
  refine Memory.read_mapSquare_of_kept _ (s.side_le hver) fun r c _ _ hcell => ?_
  have hnone : s.placedCells.lookup (cellAddr mtxBase r c) = none := by
    by_contra hsome
    obtain ⟨b, hb⟩ := Option.ne_none_iff_exists'.mp hsome
    obtain ⟨rc, hrc, haddr⟩ := exists_cell_of_lookup_placedBits hb
    exact ha rc hrc (hcell.trans haddr)
  rw [placeCell_eq, hnone, Option.none_or]

end

/-- Settles O49: the scanned cells have no repeats, so each keeps the one bit it is given. -/
theorem placeFillsTheScannedCells : Obligations.PlaceFillsTheScannedCells := by
  refine ⟨fun s hempty => ?_, fun s hbase hver => ?_⟩
  · simp only [exec, execPlace, State.hasBase, hempty]
    rfl
  · intro t8 buf cells
    refine ⟨_, exec_place_eq hbase, rfl, fun k rc hk => (State.read_placeInto_scanned hver hk).trans ?_,
      fun a ha => State.read_placeInto_of_not_scanned hver ha⟩
    simp only [cellByte, bytesBit_eq_true_iff, State.length_readBytes]
    rfl

end Sys2Proof.Machine
end

section
/-! SUPPORT. The fixed patterns of every version, cell by cell (44_matrix.md R123 to R128): which cells each pattern
covers, where two patterns meet, and what each cell of a pattern holds. -/

namespace Sys2Proof.Machine

open Sys2Proof.Claims

/-! ## The side -/

theorem seventeen_le_sideOf (v : Nat) : 17 ≤ sideOf v := Nat.le_add_left ..

theorem twentyOne_le_sideOf {v : Nat} (hv : IsVersion v) : 21 ≤ sideOf v := by
  unfold IsVersion at hv
  unfold sideOf
  omega

theorem le_sideOf_of_versionInfo {v : Nat} (h7 : 7 ≤ v) : 45 ≤ sideOf v := by
  unfold sideOf
  omega

/-! ## Templates -/

theorem blitCell_inside {y x h w : Nat} {rows : List Nat} {i j : Nat} (hi : i < h) (hj : j < w) :
    blitCell y x h w rows (y + i) (x + j) = some ((rows.getD i 0).testBit j) := by
  unfold blitCell
  rw [if_pos (by omega), Nat.add_sub_cancel_left, Nat.add_sub_cancel_left]

theorem blitCell_outside {y x h w : Nat} {rows : List Nat} {r c : Nat}
    (hout : ¬ (y ≤ r ∧ r < y + h ∧ x ≤ c ∧ c < x + w)) : blitCell y x h w rows r c = none := if_neg hout

theorem isSome_blitCell_iff {y x h w : Nat} {rows : List Nat} {r c : Nat} :
    (blitCell y x h w rows r c).isSome = true ↔ y ≤ r ∧ r < y + h ∧ x ≤ c ∧ c < x + w := by
  unfold blitCell
  split <;> simp_all

/-! ## Squares and arms -/

/-- A square and two mirrored rectangles: the shape of each kind of pattern, as the symbol's patterns are symmetric
about its diagonal. -/
def squareAndArms (s a b : Finset Nat) : Finset (Nat × Nat) := s ×ˢ s ∪ (a ×ˢ b ∪ b ×ˢ a)

theorem mem_squareAndArms {s a b : Finset Nat} {r c : Nat} :
    (r, c) ∈ squareAndArms s a b ↔ (r ∈ s ∧ c ∈ s) ∨ (r ∈ a ∧ c ∈ b) ∨ (r ∈ b ∧ c ∈ a) := by
  simp only [squareAndArms, Finset.mem_union, Finset.mem_product]

theorem card_squareAndArms {s a b : Finset Nat} (hsa : Disjoint s a) (hab : Disjoint a b) :
    (squareAndArms s a b).card = s.card * s.card + 2 * (a.card * b.card) := by
  rw [squareAndArms, Finset.card_union_of_disjoint, Finset.card_union_of_disjoint]
  · simp only [Finset.card_product]
    ring
  · exact Finset.disjoint_product.mpr (.inl hab)
  · exact Finset.disjoint_union_right.mpr
      ⟨Finset.disjoint_product.mpr (.inl hsa), Finset.disjoint_product.mpr (.inr hsa)⟩

/-! ## The corners (R124) -/

/-- The cells of the three finder corners. -/
def cornerCells (n : Nat) : Finset (Nat × Nat) :=
  squareAndArms (Finset.range 9) (Finset.Ico (n - 8) n) (Finset.range 9)

theorem mem_cornerCells {n r c : Nat} : (r, c) ∈ cornerCells n ↔
    (r < 9 ∧ c < 9) ∨ ((n - 8 ≤ r ∧ r < n) ∧ c < 9) ∨ (r < 9 ∧ n - 8 ≤ c ∧ c < n) := by
  simp only [cornerCells, mem_squareAndArms, Finset.mem_range, Finset.mem_Ico]

section

variable {n : Nat} (hn : 17 ≤ n)

include hn

theorem isSome_cornerCell_iff {r c : Nat} : (cornerCell n r c).isSome = true ↔ (r, c) ∈ cornerCells n := by
  simp only [cornerCell, Option.isSome_or, Bool.or_eq_true, isSome_blitCell_iff, mem_cornerCells]
  omega

theorem cornerCell_topLeft {r c : Nat} (hr : r < 9) (hc : c < 9) :
    cornerCell n r c = some ((topLeftRows.getD r 0).testBit c) := by
  have h := blitCell_inside (y := 0) (x := 0) (rows := topLeftRows) hr hc
  rw [Nat.zero_add, Nat.zero_add] at h
  rw [cornerCell, blitCell_outside (by omega), blitCell_outside (by omega), h, Option.none_or, Option.none_or]

theorem cornerCell_bottomLeft {i c : Nat} (hi : i < 8) (hc : c < 9) :
    cornerCell n (n - 8 + i) c = some ((bottomLeftRows.getD i 0).testBit c) := by
  have h := blitCell_inside (y := n - 8) (x := 0) (rows := bottomLeftRows) hi hc
  rw [Nat.zero_add] at h
  rw [cornerCell, blitCell_outside (by omega), h, Option.none_or, Option.some_or]

end

theorem cornerCell_topRight {n r j : Nat} (hr : r < 9) (hj : j < 8) :
    cornerCell n r (n - 8 + j) = some ((topRightRows.getD r 0).testBit j) := by
  have h := blitCell_inside (y := 0) (x := n - 8) (rows := topRightRows) hr hj
  rw [Nat.zero_add] at h
  rw [cornerCell, h, Option.some_or]

/-- The three templates draw the finder of concentric squares, mirrored to its corner. -/
theorem finderTemplates : ∀ r ≤ 7, ∀ c ≤ 7,
    let ring := max (max r 3 - min r 3) (max c 3 - min c 3)
    let black := decide (ring ≠ 2 ∧ ring ≠ 4)
    (topLeftRows.getD r 0).testBit c = black ∧ (bottomLeftRows.getD (7 - r) 0).testBit c = black ∧
      (topRightRows.getD r 0).testBit (7 - c) = black := by
  decide

/-- The templates leave the format strips white. -/
theorem formatTemplates : ∀ i ≤ 8, i ≠ 6 →
    (topLeftRows.getD 8 0).testBit i = false ∧ (topLeftRows.getD i 0).testBit 8 = false := by
  decide

/-- The far format strips are white but for the dark module. -/
theorem farFormatTemplates : ∀ i ≤ 7,
    (topRightRows.getD 8 0).testBit (7 - i) = false ∧ (bottomLeftRows.getD (7 - i) 0).testBit 8 = decide (i = 7) := by
  decide

/-! ## The timing lines (R125) -/

/-- The cells of the two timing lines. -/
def timingCells (n : Nat) : Finset (Nat × Nat) := squareAndArms ∅ {6} (Finset.Icc 9 (n - 9))

theorem mem_timingCells {n r c : Nat} :
    (r, c) ∈ timingCells n ↔ (r = 6 ∧ 9 ≤ c ∧ c ≤ n - 9) ∨ ((9 ≤ r ∧ r ≤ n - 9) ∧ c = 6) := by
  simp only [timingCells, mem_squareAndArms, Finset.notMem_empty, and_self, false_or, Finset.mem_singleton,
    Finset.mem_Icc]

theorem isSome_timingCell_iff {n r c : Nat} : (timingCell n r c).isSome = true ↔ (r, c) ∈ timingCells n := by
  rw [mem_timingCells]
  unfold timingCell
  split
  · next hrow => exact iff_of_true rfl (.inl hrow)
  split
  · next hcolumn => exact iff_of_true rfl (.inr ⟨hcolumn.2, hcolumn.1⟩)
  · next hrow hcolumn => exact iff_of_false nofun (by omega)

theorem timingCell_row {n i : Nat} (hi : 9 ≤ i ∧ i ≤ n - 9) : timingCell n 6 i = some (decide (i % 2 = 0)) :=
  if_pos ⟨rfl, hi⟩

theorem timingCell_column {n i : Nat} (hi : 9 ≤ i ∧ i ≤ n - 9) : timingCell n i 6 = some (decide (i % 2 = 0)) := by
  unfold timingCell
  rw [if_neg (by omega), if_pos ⟨rfl, hi⟩]

/-! ## The version blocks (R127) -/

/-- The cells of the two version blocks, none below version 7. -/
def versionCells (v : Nat) : Finset (Nat × Nat) :=
  squareAndArms ∅ (Finset.range (if 7 ≤ v then 6 else 0)) (Finset.Ico (sideOf v - 11) (sideOf v - 8))

theorem mem_versionCells {v r c : Nat} : (r, c) ∈ versionCells v ↔
    7 ≤ v ∧ ((r < 6 ∧ sideOf v - 11 ≤ c ∧ c < sideOf v - 8) ∨ ((sideOf v - 11 ≤ r ∧ r < sideOf v - 8) ∧ c < 6)) := by
  by_cases h7 : 7 ≤ v <;> simp [versionCells, mem_squareAndArms, h7]

theorem versionCell_eq (v r c : Nat) : versionCell v r c =
    if 7 ≤ v then
      if r < 6 ∧ sideOf v - 11 ≤ c ∧ c ≤ sideOf v - 9 then
        some ((versionCode v).testBit (3 * r + (c - (sideOf v - 11))))
      else if c < 6 ∧ sideOf v - 11 ≤ r ∧ r ≤ sideOf v - 9 then
        some ((versionCode v).testBit (3 * c + (r - (sideOf v - 11))))
      else none
    else none := rfl

theorem isSome_versionCell_iff {v r c : Nat} : (versionCell v r c).isSome = true ↔ (r, c) ∈ versionCells v := by
  have hn := seventeen_le_sideOf v
  rw [mem_versionCells, versionCell_eq]
  split
  · split
    · exact iff_of_true rfl (by omega)
    split
    · exact iff_of_true rfl (by omega)
    · exact iff_of_false nofun (by omega)
  · exact iff_of_false nofun (by omega)

/-- The upper block holds the code by rows, the lower one by columns. -/
theorem versionCell_block {v i j : Nat} (h7 : 7 ≤ v) (hi : i ≤ 5) (hj : j ≤ 2) :
    versionCell v i (sideOf v - 11 + j) = some ((versionCode v).testBit (3 * i + j)) ∧
      versionCell v (sideOf v - 11 + j) i = some ((versionCode v).testBit (3 * i + j)) := by
  have hn := le_sideOf_of_versionInfo h7
  constructor
  · rw [versionCell_eq, if_pos h7, if_pos (by omega), Nat.add_sub_cancel_left]
  · rw [versionCell_eq, if_pos h7, if_neg (by omega), if_pos (by omega), Nat.add_sub_cancel_left]

/-! ## The alignment positions (R89) -/

/-- Alignment position `a` of a version. -/
def alignPos (v a : Nat) : Nat := (alignPositions v).getD a 0

/-- The rows or columns the alignment patterns at positions `lo` to `hi - 1` cover. -/
def alignLines (v lo hi : Nat) : Finset Nat :=
  (Finset.Ico lo hi).biUnion fun a => Finset.Icc (alignPos v a - 2) (alignPos v a + 2)

theorem mem_alignLines {v lo hi x : Nat} : x ∈ alignLines v lo hi ↔
    ∃ a, (lo ≤ a ∧ a < hi) ∧ alignPos v a - 2 ≤ x ∧ x ≤ alignPos v a + 2 := by
  simp [alignLines]

/-- The positions are even and at least 12 apart, the first is 6, and the last lies at 7 from the edge. -/
theorem alignPositions_spaced : ∀ v ∈ List.range' 2 39,
    (alignPositions v).Pairwise (fun x y => x + 12 ≤ y) ∧ (∀ x ∈ alignPositions v, x % 2 = 0) ∧
      2 ≤ alignCount v ∧ alignPos v 0 = 6 ∧ alignPos v (alignCount v - 1) + 7 = sideOf v := by
  decide +kernel

section

variable {v : Nat} (hv : IsVersion v)

include hv

/-- Version 1 has no alignment pattern, every other version has those of `alignPositions_spaced`. -/
theorem alignCount_eq_zero_or : alignCount v = 0 ∨ v ∈ List.range' 2 39 := by
  obtain ⟨h1, h40⟩ := hv
  obtain rfl | h2 := h1.eq_or_lt
  · exact .inl rfl
  · exact .inr (by rw [List.mem_range'_1]; omega)

theorem alignPos_spaced {a b : Nat} (hab : a < b) (hb : b < alignCount v) : alignPos v a + 12 ≤ alignPos v b := by
  obtain h0 | htable := alignCount_eq_zero_or hv
  · omega
  obtain ⟨hspaced, -⟩ := alignPositions_spaced v htable
  rw [alignPos, alignPos, List.getD_eq_getElem _ _ hb, List.getD_eq_getElem _ _ (hab.trans hb)]
  exact List.pairwise_iff_getElem.mp hspaced a b (hab.trans hb) hb hab

theorem alignPos_even {a : Nat} (ha : a < alignCount v) : alignPos v a % 2 = 0 := by
  obtain h0 | htable := alignCount_eq_zero_or hv
  · omega
  obtain ⟨-, heven, -⟩ := alignPositions_spaced v htable
  rw [alignPos, List.getD_eq_getElem _ _ ha]
  exact heven _ (List.getElem_mem ha)

/-- The first position is 6 and the last is 7 from the edge. -/
theorem alignPos_ends (h : 0 < alignCount v) :
    2 ≤ alignCount v ∧ alignPos v 0 = 6 ∧ alignPos v (alignCount v - 1) + 7 = sideOf v := by
  obtain h0 | htable := alignCount_eq_zero_or hv
  · omega
  obtain ⟨-, -, hends⟩ := alignPositions_spaced v htable
  exact hends

/-- A position after the first. -/
theorem alignPos_bounds {a : Nat} (h1 : 1 ≤ a) (ha : a < alignCount v) :
    18 ≤ alignPos v a ∧ alignPos v a + 7 ≤ sideOf v := by
  obtain ⟨-, hfirst, hlast⟩ := alignPos_ends hv (by omega)
  have hlow := alignPos_spaced hv h1 ha
  obtain rfl | hnot : a = alignCount v - 1 ∨ a < alignCount v - 1 := by omega
  · omega
  · have hhigh := alignPos_spaced hv hnot (by omega)
    omega

/-- Only the first position covers row or column 6. -/
theorem eq_zero_of_alignPos_le {a : Nat} (ha : a < alignCount v) (h6 : alignPos v a ≤ 8) : a = 0 := by
  by_contra h0
  have := alignPos_bounds hv (Nat.pos_of_ne_zero h0) ha
  omega

/-- A position before the last. -/
theorem alignPos_le {a : Nat} (ha : a < alignCount v - 1) : alignPos v a + 19 ≤ sideOf v := by
  obtain ⟨-, -, hlast⟩ := alignPos_ends hv (by omega)
  have hhigh := alignPos_spaced hv ha (by omega)
  omega

theorem alignLines_bounds {x : Nat} (hx : x ∈ alignLines v 1 (alignCount v)) : 16 ≤ x ∧ x + 5 ≤ sideOf v := by
  obtain ⟨a, ha, hxa⟩ := mem_alignLines.mp hx
  have h := alignPos_bounds hv ha.1 ha.2
  omega

theorem alignLines_inner_bounds {x : Nat} (hx : x ∈ alignLines v 1 (alignCount v - 1)) :
    16 ≤ x ∧ x + 17 ≤ sideOf v := by
  obtain ⟨a, ha, hxa⟩ := mem_alignLines.mp hx
  have h := alignPos_bounds hv ha.1 (by omega)
  have h' := alignPos_le hv ha.2
  omega

/-- A line belongs to one position only. -/
theorem alignPos_unique {a b x : Nat} (ha : a < alignCount v) (hb : b < alignCount v)
    (hxa : alignPos v a - 2 ≤ x ∧ x ≤ alignPos v a + 2) (hxb : alignPos v b - 2 ≤ x ∧ x ≤ alignPos v b + 2) :
    a = b := by
  obtain hab | hab | hab := Nat.lt_trichotomy a b
  · have := alignPos_spaced hv hab hb
    omega
  · exact hab
  · have := alignPos_spaced hv hab ha
    omega

end

/-! ## The alignment patterns (R126) -/

/-- Positions `a` and `b` of `m` are a centre: not one of the three at a finder. -/
def IsCentre (m a b : Nat) : Prop :=
  a < m ∧ b < m ∧ ¬ ((a = 0 ∧ b = 0) ∨ (a = 0 ∧ b = m - 1) ∨ (a = m - 1 ∧ b = 0))

/-- The cell lies in the alignment pattern of positions `a` and `b`. -/
def InPattern (v a b r c : Nat) : Prop :=
  (alignPos v a - 2 ≤ r ∧ r ≤ alignPos v a + 2) ∧ alignPos v b - 2 ≤ c ∧ c ≤ alignPos v b + 2

/-- The cell lies in an alignment pattern. -/
def InAlign (v r c : Nat) : Prop := ∃ a b, IsCentre (alignCount v) a b ∧ InPattern v a b r c

theorem mem_alignCentres {v : Nat} {yx : Nat × Nat} :
    yx ∈ alignCentres v ↔ ∃ a b, IsCentre (alignCount v) a b ∧ yx = (alignPos v a, alignPos v b) := by
  simp only [alignCentres, List.mem_flatMap, List.mem_filterMap, List.mem_range, Option.ite_none_left_eq_some,
    Option.some.injEq, IsCentre, alignCount, alignPos]
  constructor
  · rintro ⟨a, ha, b, hb, hcentre, rfl⟩
    exact ⟨a, b, ⟨ha, hb, hcentre⟩, rfl⟩
  · rintro ⟨a, b, ⟨ha, hb, hcentre⟩, rfl⟩
    exact ⟨a, ha, b, hb, hcentre, rfl⟩

section

variable {v : Nat} (hv : IsVersion v)

include hv

theorem two_le_alignPos {a : Nat} (ha : a < alignCount v) : 2 ≤ alignPos v a := by
  obtain ⟨-, hfirst, -⟩ := alignPos_ends hv (by omega)
  obtain rfl | h1 := Nat.eq_zero_or_pos a
  · omega
  · have := alignPos_bounds hv h1 ha
    omega

theorem isSome_blitCell_align_iff {a b r c : Nat} (h : IsCentre (alignCount v) a b) :
    (blitCell (alignPos v a - 2) (alignPos v b - 2) 5 5 alignRows r c).isSome = true ↔ InPattern v a b r c := by
  obtain ⟨ha, hb, -⟩ := h
  have hya := two_le_alignPos hv ha
  have hxb := two_le_alignPos hv hb
  rw [isSome_blitCell_iff, InPattern]
  omega

theorem isSome_alignCell_iff {r c : Nat} : (alignCell v r c).isSome = true ↔ InAlign v r c := by
  rw [alignCell, List.findSome?_isSome_iff]
  constructor
  · rintro ⟨yx, hyx, hsome⟩
    obtain ⟨a, b, hcentre, rfl⟩ := mem_alignCentres.mp hyx
    exact ⟨a, b, hcentre, (isSome_blitCell_align_iff hv hcentre).mp hsome⟩
  · rintro ⟨a, b, hcentre, hin⟩
    exact ⟨_, mem_alignCentres.mpr ⟨a, b, hcentre, rfl⟩, (isSome_blitCell_align_iff hv hcentre).mpr hin⟩

/-- No other pattern covers a cell of an alignment pattern, so the cell holds its template. -/
theorem alignCell_eq {a b r c : Nat} (hcentre : IsCentre (alignCount v) a b) (hin : InPattern v a b r c) :
    alignCell v r c = blitCell (alignPos v a - 2) (alignPos v b - 2) 5 5 alignRows r c := by
  obtain ⟨bit, hbit⟩ := Option.isSome_iff_exists.mp ((isSome_alignCell_iff hv).mpr ⟨a, b, hcentre, hin⟩)
  obtain ⟨yx, hyx, hcell⟩ := List.exists_of_findSome?_eq_some hbit
  obtain ⟨a', b', hcentre', rfl⟩ := mem_alignCentres.mp hyx
  have hin' : InPattern v a' b' r c := (isSome_blitCell_align_iff hv hcentre').mp (by rw [hcell]; rfl)
  obtain rfl := alignPos_unique hv hcentre.1 hcentre'.1 hin.1 hin'.1
  obtain rfl := alignPos_unique hv hcentre.2.1 hcentre'.2.1 hin.2 hin'.2
  exact hbit.trans hcell.symm

/-- The alignment patterns are those off row and column 6, and those on one of these lines but at no finder. -/
theorem inAlign_iff {r c : Nat} : InAlign v r c ↔
    (r ∈ alignLines v 1 (alignCount v) ∧ c ∈ alignLines v 1 (alignCount v)) ∨
      ((4 ≤ r ∧ r ≤ 8) ∧ c ∈ alignLines v 1 (alignCount v - 1)) ∨
      (r ∈ alignLines v 1 (alignCount v - 1) ∧ 4 ≤ c ∧ c ≤ 8) := by
  constructor
  · rintro ⟨a, b, ⟨ha, hb, hnot⟩, hr, hc⟩
    obtain ⟨-, hfirst, -⟩ := alignPos_ends hv (by omega)
    obtain rfl | h1a := Nat.eq_zero_or_pos a
    · exact .inr (.inl ⟨by omega, mem_alignLines.mpr ⟨b, by omega, hc⟩⟩)
    obtain rfl | h1b := Nat.eq_zero_or_pos b
    · exact .inr (.inr ⟨mem_alignLines.mpr ⟨a, by omega, hr⟩, by omega⟩)
    · exact .inl ⟨mem_alignLines.mpr ⟨a, by omega, hr⟩, mem_alignLines.mpr ⟨b, by omega, hc⟩⟩
  · rintro (⟨hr, hc⟩ | ⟨hr, hc⟩ | ⟨hr, hc⟩)
    · obtain ⟨a, ha, hr⟩ := mem_alignLines.mp hr
      obtain ⟨b, hb, hc⟩ := mem_alignLines.mp hc
      exact ⟨a, b, ⟨by omega, by omega, by omega⟩, hr, hc⟩
    · obtain ⟨b, hb, hc⟩ := mem_alignLines.mp hc
      obtain ⟨-, hfirst, -⟩ := alignPos_ends hv (by omega)
      exact ⟨0, b, ⟨by omega, by omega, by omega⟩, by omega, hc⟩
    · obtain ⟨a, ha, hr⟩ := mem_alignLines.mp hr
      obtain ⟨-, hfirst, -⟩ := alignPos_ends hv (by omega)
      exact ⟨a, 0, ⟨by omega, by omega, by omega⟩, hr, by omega⟩

/-- Where a cell of an alignment pattern can be. -/
theorem InAlign.bounds {r c : Nat} (h : InAlign v r c) :
    ((16 ≤ r ∧ r + 5 ≤ sideOf v) ∧ 16 ≤ c ∧ c + 5 ≤ sideOf v) ∨ ((4 ≤ r ∧ r ≤ 8) ∧ 16 ≤ c ∧ c + 17 ≤ sideOf v) ∨
      ((16 ≤ r ∧ r + 17 ≤ sideOf v) ∧ 4 ≤ c ∧ c ≤ 8) := by
  obtain ⟨hr, hc⟩ | ⟨hr, hc⟩ | ⟨hr, hc⟩ := (inAlign_iff hv).mp h
  · exact .inl ⟨alignLines_bounds hv hr, alignLines_bounds hv hc⟩
  · exact .inr (.inl ⟨hr, alignLines_inner_bounds hv hc⟩)
  · exact .inr (.inr ⟨alignLines_inner_bounds hv hr, hc⟩)

/-! ## Where the patterns meet -/

/-- The alignment patterns lie clear of the corners. -/
theorem InAlign.not_mem_cornerCells {r c : Nat} (h : InAlign v r c) : (r, c) ∉ cornerCells (sideOf v) := by
  have hbounds := h.bounds hv
  rw [mem_cornerCells]
  omega

/-- The alignment patterns lie clear of the version blocks. -/
theorem InAlign.not_mem_versionCells {r c : Nat} (h : InAlign v r c) : (r, c) ∉ versionCells v := by
  have hbounds := h.bounds hv
  rw [mem_versionCells]
  omega

end

theorem timing_not_mem_cornerCells {v r c : Nat} (h : (r, c) ∈ timingCells (sideOf v)) :
    (r, c) ∉ cornerCells (sideOf v) := by
  have hn := seventeen_le_sideOf v
  rw [mem_timingCells] at h
  rw [mem_cornerCells]
  omega

theorem version_not_mem_cornerCells {v r c : Nat} (h : (r, c) ∈ versionCells v) :
    (r, c) ∉ cornerCells (sideOf v) := by
  rw [mem_versionCells] at h
  have hn := le_sideOf_of_versionInfo h.1
  rw [mem_cornerCells]
  omega

theorem version_not_mem_timingCells {v r c : Nat} (h : (r, c) ∈ versionCells v) :
    (r, c) ∉ timingCells (sideOf v) := by
  rw [mem_versionCells] at h
  have hn := le_sideOf_of_versionInfo h.1
  rw [mem_timingCells]
  omega

/-! ## The cells of each pattern in the base matrix (R128) -/

theorem baseCell_of_mem_versionCells {v r c : Nat} (h : (r, c) ∈ versionCells v) :
    baseCell v r c = versionCell v r c := by
  obtain ⟨bit, hbit⟩ := Option.isSome_iff_exists.mp (isSome_versionCell_iff.mpr h)
  rw [baseCell, hbit, Option.some_or]

theorem versionCell_eq_none {v r c : Nat} (h : (r, c) ∉ versionCells v) : versionCell v r c = none :=
  Option.not_isSome_iff_eq_none.mp (mt isSome_versionCell_iff.mp h)

theorem timingCell_eq_none {n r c : Nat} (h : (r, c) ∉ timingCells n) : timingCell n r c = none :=
  Option.not_isSome_iff_eq_none.mp (mt isSome_timingCell_iff.mp h)

section

variable {v : Nat} (hv : IsVersion v)

include hv

theorem alignCell_eq_none {r c : Nat} (h : ¬ InAlign v r c) : alignCell v r c = none :=
  Option.not_isSome_iff_eq_none.mp (mt (isSome_alignCell_iff hv).mp h)

theorem baseCell_of_mem_cornerCells {r c : Nat} (h : (r, c) ∈ cornerCells (sideOf v)) :
    baseCell v r c = cornerCell (sideOf v) r c := by
  rw [baseCell, versionCell_eq_none fun hversion => version_not_mem_cornerCells hversion h,
    alignCell_eq_none hv fun halign => halign.not_mem_cornerCells hv h,
    timingCell_eq_none fun htiming => timing_not_mem_cornerCells htiming h, Option.none_or, Option.none_or,
    Option.none_or]

theorem baseCell_of_inAlign {r c : Nat} (h : InAlign v r c) : baseCell v r c = alignCell v r c := by
  obtain ⟨bit, hbit⟩ := Option.isSome_iff_exists.mp ((isSome_alignCell_iff hv).mpr h)
  rw [baseCell, versionCell_eq_none (h.not_mem_versionCells hv), hbit, Option.none_or, Option.some_or]

theorem inPattern_add {a b i j : Nat} (h : IsCentre (alignCount v) a b) (hi : i ≤ 4) (hj : j ≤ 4) :
    InPattern v a b (alignPos v a - 2 + i) (alignPos v b - 2 + j) := by
  obtain ⟨ha, hb, -⟩ := h
  have hya := two_le_alignPos hv ha
  have hxb := two_le_alignPos hv hb
  unfold InPattern
  omega

theorem alignCell_template {a b i j : Nat} (h : IsCentre (alignCount v) a b) (hi : i ≤ 4) (hj : j ≤ 4) :
    alignCell v (alignPos v a - 2 + i) (alignPos v b - 2 + j) = some ((alignRows.getD i 0).testBit j) := by
  rw [alignCell_eq hv h (inPattern_add hv h hi hj), blitCell_inside (by omega) (by omega)]

/-- An alignment pattern on a timing line repeats the line's cells: its centre line alternates, and its centre is
even. -/
theorem alignCell_eq_timingCell {r c : Nat} (h : InAlign v r c) (htiming : (r, c) ∈ timingCells (sideOf v)) :
    alignCell v r c = timingCell (sideOf v) r c := by
  have htemplate : ∀ k ≤ 4, (alignRows.getD 2 0).testBit k = decide (k % 2 = 0) ∧
      (alignRows.getD k 0).testBit 2 = decide (k % 2 = 0) := by decide
  obtain ⟨a, b, hcentre, hr, hc⟩ := h
  obtain ⟨ha, hb, -⟩ := id hcentre
  obtain ⟨-, hfirst, -⟩ := alignPos_ends hv (by omega)
  obtain ⟨rfl, hrow⟩ | ⟨hcolumn, rfl⟩ := mem_timingCells.mp htiming
  · obtain rfl := eq_zero_of_alignPos_le hv ha (by omega)
    obtain ⟨j, rfl⟩ := Nat.exists_eq_add_of_le hc.1
    have heven := alignPos_even hv hb
    have hcell := alignCell_template hv hcentre (i := 2) (j := j) (by omega) (by omega)
    rw [hfirst] at hcell
    rw [timingCell_row hrow, hcell, (htemplate j (by omega)).1]
    congr 2
    rw [eq_iff_iff]
    omega
  · obtain rfl := eq_zero_of_alignPos_le hv hb (by omega)
    obtain ⟨i, rfl⟩ := Nat.exists_eq_add_of_le hr.1
    have heven := alignPos_even hv ha
    have hcell := alignCell_template hv hcentre (i := i) (j := 2) (by omega) (by omega)
    rw [hfirst] at hcell
    rw [timingCell_column hcolumn, hcell, (htemplate i (by omega)).2]
    congr 2
    rw [eq_iff_iff]
    omega

theorem baseCell_of_mem_timingCells {r c : Nat} (h : (r, c) ∈ timingCells (sideOf v)) :
    baseCell v r c = timingCell (sideOf v) r c := by
  by_cases halign : InAlign v r c
  · rw [baseCell_of_inAlign hv halign, alignCell_eq_timingCell hv halign h]
  · obtain ⟨bit, hbit⟩ := Option.isSome_iff_exists.mp (isSome_timingCell_iff.mpr h)
    rw [baseCell, versionCell_eq_none fun hversion => version_not_mem_timingCells hversion h,
      alignCell_eq_none hv halign, hbit, Option.none_or, Option.none_or, Option.some_or]

/-- A cell is free when no pattern covers it. -/
theorem isSome_baseCell_iff {r c : Nat} : (baseCell v r c).isSome = true ↔
    (r, c) ∈ versionCells v ∨ InAlign v r c ∨ (r, c) ∈ timingCells (sideOf v) ∨ (r, c) ∈ cornerCells (sideOf v) := by
  have hn := seventeen_le_sideOf v
  simp only [baseCell, Option.isSome_or, Bool.or_eq_true, isSome_versionCell_iff, isSome_alignCell_iff hv,
    isSome_timingCell_iff, isSome_cornerCell_iff hn]

end

end Sys2Proof.Machine
end

section
/-! SUPPORT. The number of free cells (41_capacity.md R91, R94): the patterns cover disjoint sets of cells, once the
cells alignment patterns share with the timing lines are counted as timing cells. -/

namespace Sys2Proof.Machine

open Sys2Proof.Claims

/-! ## The cells in patterns -/

/-- The lines of an alignment pattern on row or column 6, but for that row or column. -/
def besideSix : Finset Nat := {4, 5, 7, 8}

theorem mem_besideSix {x : Nat} : x ∈ besideSix ↔ (4 ≤ x ∧ x ≤ 8) ∧ x ≠ 6 := by
  simp only [besideSix, Finset.mem_insert, Finset.mem_singleton]
  omega

/-- The cells of the alignment patterns off the timing lines. -/
def alignCells (v : Nat) : Finset (Nat × Nat) :=
  squareAndArms (alignLines v 1 (alignCount v)) besideSix (alignLines v 1 (alignCount v - 1))

/-- The cells of all patterns. -/
def patternCells (v : Nat) : Finset (Nat × Nat) :=
  cornerCells (sideOf v) ∪ (timingCells (sideOf v) ∪ (versionCells v ∪ alignCells v))

section

variable {v : Nat} (hv : IsVersion v)

include hv

theorem mem_alignCells_iff {r c : Nat} :
    (r, c) ∈ alignCells v ↔ InAlign v r c ∧ (r, c) ∉ timingCells (sideOf v) := by
  rw [alignCells, mem_squareAndArms, inAlign_iff hv, mem_timingCells, mem_besideSix, mem_besideSix]
  constructor
  · rintro (⟨hr, hc⟩ | ⟨⟨hr, hr6⟩, hc⟩ | ⟨hr, hc, hc6⟩)
    · have hrow := alignLines_bounds hv hr
      have hcolumn := alignLines_bounds hv hc
      exact ⟨.inl ⟨hr, hc⟩, by omega⟩
    · have hcolumn := alignLines_inner_bounds hv hc
      exact ⟨.inr (.inl ⟨hr, hc⟩), by omega⟩
    · have hrow := alignLines_inner_bounds hv hr
      exact ⟨.inr (.inr ⟨hr, hc⟩), by omega⟩
  · rintro ⟨⟨hr, hc⟩ | ⟨hr, hc⟩ | ⟨hr, hc⟩, htiming⟩
    · exact .inl ⟨hr, hc⟩
    · have hcolumn := alignLines_inner_bounds hv hc
      exact .inr (.inl ⟨⟨hr, by omega⟩, hc⟩)
    · have hrow := alignLines_inner_bounds hv hr
      exact .inr (.inr ⟨hr, hc, by omega⟩)

theorem isSome_baseCell_iff_mem {r c : Nat} : (baseCell v r c).isSome = true ↔ (r, c) ∈ patternCells v := by
  rw [isSome_baseCell_iff hv]
  simp only [patternCells, Finset.mem_union, mem_alignCells_iff hv]
  by_cases htiming : (r, c) ∈ timingCells (sideOf v)
  · simp only [htiming, true_or, or_true]
  · simp only [htiming, not_false_eq_true, and_true, false_or]
    rw [← or_assoc, or_comm]

theorem patternCells_subset : patternCells v ⊆ Finset.range (sideOf v) ×ˢ Finset.range (sideOf v) := by
  have hn := twentyOne_le_sideOf hv
  rintro ⟨r, c⟩ h
  rw [Finset.mem_product, Finset.mem_range, Finset.mem_range]
  rw [← isSome_baseCell_iff_mem hv, isSome_baseCell_iff hv] at h
  obtain h | h | h | h := h
  · rw [mem_versionCells] at h
    omega
  · have hbounds := h.bounds hv
    omega
  · rw [mem_timingCells] at h
    omega
  · rw [mem_cornerCells] at h
    omega

end

/-! ## Their number -/

theorem card_versionCells (v : Nat) : (versionCells v).card = if v > 6 then 36 else 0 := by
  have hn := seventeen_le_sideOf v
  have harms : Disjoint (Finset.range (if 7 ≤ v then 6 else 0)) (Finset.Ico (sideOf v - 11) (sideOf v - 8)) :=
    Finset.disjoint_left.mpr fun x hx hx' => by
      rw [Finset.mem_Ico] at hx'
      rw [Finset.mem_range] at hx
      split at hx <;> omega
  have hwidth : sideOf v - 8 - (sideOf v - 11) = 3 := by omega
  rw [versionCells, card_squareAndArms (Finset.disjoint_empty_left _) harms, Finset.card_empty,
    Finset.card_range, Nat.card_Ico, hwidth]
  by_cases h7 : 7 ≤ v
  · rw [if_pos h7, if_pos (Nat.lt_of_succ_le h7)]
  · rw [if_neg h7, if_neg (by omega)]

section

variable {v : Nat} (hv : IsVersion v)

include hv

theorem card_alignLines {hi : Nat} (hhi : hi ≤ alignCount v) : (alignLines v 1 hi).card = 5 * (hi - 1) := by
  have hdisjoint : ∀ a ∈ Finset.Ico 1 hi, ∀ b ∈ Finset.Ico 1 hi, a ≠ b →
      Disjoint (Finset.Icc (alignPos v a - 2) (alignPos v a + 2))
        (Finset.Icc (alignPos v b - 2) (alignPos v b + 2)) := by
    intro a ha b hb hab
    rw [Finset.mem_Ico] at ha hb
    refine Finset.disjoint_left.mpr fun x hxa hxb => hab ?_
    exact alignPos_unique hv (by omega) (by omega) (Finset.mem_Icc.mp hxa) (Finset.mem_Icc.mp hxb)
  have hfive : ∀ a ∈ Finset.Ico 1 hi, (Finset.Icc (alignPos v a - 2) (alignPos v a + 2)).card = 5 := by
    intro a ha
    rw [Finset.mem_Ico] at ha
    have := two_le_alignPos hv (a := a) (by omega)
    rw [Nat.card_Icc]
    omega
  rw [alignLines, Finset.card_biUnion hdisjoint, Finset.sum_congr rfl hfive, Finset.sum_const, Nat.card_Ico,
    smul_eq_mul, Nat.mul_comm]

/-- Whole patterns off the timing lines, and the 20 cells off the line of each pattern on one. -/
theorem card_alignCells : (alignCells v).card =
    25 * ((alignCount v - 1) * (alignCount v - 1)) + 40 * (alignCount v - 2) := by
  have hsquare : Disjoint (alignLines v 1 (alignCount v)) besideSix := Finset.disjoint_left.mpr fun x hx hx6 => by
    have hbounds := alignLines_bounds hv hx
    rw [mem_besideSix] at hx6
    omega
  have harms : Disjoint besideSix (alignLines v 1 (alignCount v - 1)) := Finset.disjoint_left.mpr fun x hx6 hx => by
    have hbounds := alignLines_inner_bounds hv hx
    rw [mem_besideSix] at hx6
    omega
  have hfour : besideSix.card = 4 := rfl
  rw [alignCells, card_squareAndArms hsquare harms, card_alignLines hv le_rfl, card_alignLines hv (Nat.sub_le _ _),
    hfour, Nat.sub_sub]
  ring

theorem card_cornerCells : (cornerCells (sideOf v)).card = 225 := by
  have hn := twentyOne_le_sideOf hv
  have hapart : Disjoint (Finset.range 9) (Finset.Ico (sideOf v - 8) (sideOf v)) :=
    Finset.disjoint_left.mpr fun x hx hx' => by
      rw [Finset.mem_range] at hx
      rw [Finset.mem_Ico] at hx'
      omega
  rw [cornerCells, card_squareAndArms hapart hapart.symm, Finset.card_range, Nat.card_Ico]
  omega

theorem card_timingCells : (timingCells (sideOf v)).card = 2 * sideOf v - 34 := by
  have hn := twentyOne_le_sideOf hv
  have harms : Disjoint {6} (Finset.Icc 9 (sideOf v - 9)) := by simp
  rw [timingCells, card_squareAndArms (Finset.disjoint_empty_left _) harms, Finset.card_empty,
    Finset.card_singleton, Nat.card_Icc]
  omega

theorem card_patternCells : (patternCells v).card =
    225 + ((2 * sideOf v - 34) + ((if v > 6 then 36 else 0) +
      (25 * ((alignCount v - 1) * (alignCount v - 1)) + 40 * (alignCount v - 2)))) := by
  rw [patternCells, Finset.card_union_of_disjoint, Finset.card_union_of_disjoint, Finset.card_union_of_disjoint,
    card_cornerCells hv, card_timingCells hv, card_versionCells v, card_alignCells hv]
  · refine Finset.disjoint_left.mpr fun ⟨r, c⟩ hversion halign => ?_
    exact ((mem_alignCells_iff hv).mp halign).1.not_mem_versionCells hv hversion
  · refine Finset.disjoint_union_right.mpr ⟨?_, ?_⟩
    · exact Finset.disjoint_left.mpr fun ⟨r, c⟩ htiming hversion => version_not_mem_timingCells hversion htiming
    · exact Finset.disjoint_left.mpr fun ⟨r, c⟩ htiming halign => ((mem_alignCells_iff hv).mp halign).2 htiming
  · refine Finset.disjoint_union_right.mpr ⟨?_, Finset.disjoint_union_right.mpr ⟨?_, ?_⟩⟩
    · exact Finset.disjoint_left.mpr fun ⟨r, c⟩ hcorner htiming => timing_not_mem_cornerCells htiming hcorner
    · exact Finset.disjoint_left.mpr fun ⟨r, c⟩ hcorner hversion => version_not_mem_cornerCells hversion hcorner
    · exact Finset.disjoint_left.mpr fun ⟨r, c⟩ hcorner halign =>
        ((mem_alignCells_iff hv).mp halign).1.not_mem_cornerCells hv hcorner

/-- RAW is the number of cells in no pattern (R91). -/
theorem rawModules_add_card_patternCells : rawModules v + (patternCells v).card = sideOf v * sideOf v := by
  have hle := Finset.card_le_card (patternCells_subset hv)
  rw [Finset.card_product, Finset.card_range, card_patternCells hv] at hle
  have halign : (if alignCount v > 0 then 25 * alignCount v * alignCount v - 10 * alignCount v - 55 else 0) =
      25 * ((alignCount v - 1) * (alignCount v - 1)) + 40 * (alignCount v - 2) := by
    by_cases h0 : alignCount v = 0
    · rw [h0]
      rfl
    · obtain ⟨h2, -⟩ := alignPos_ends hv (Nat.pos_of_ne_zero h0)
      obtain ⟨k, hk⟩ := Nat.exists_eq_add_of_le' h2
      have hsquare : 25 * (k + 2) * (k + 2) = 25 * ((k + 1) * (k + 1)) + (50 * k + 75) := by ring
      rw [hk, if_pos (by omega), hsquare]
      change _ = 25 * ((k + 1) * (k + 1)) + 40 * k
      omega
  simp only [rawModules, halign, card_patternCells hv]
  omega

end

/-! ## The free cells -/

/-- Counting row by row counts the cells of the square. -/
theorem sum_countP_eq_card (n : Nat) (p : Nat → Nat → Bool) :
    ((List.range n).map fun r => (List.range n).countP (p r)).sum =
      ((Finset.range n ×ˢ Finset.range n).filter fun rc => p rc.1 rc.2 = true).card := by
  rw [Finset.card_filter, Finset.sum_product]
  simp only [← Finset.card_filter, ← Nat.count_eq_card_filter_range, Nat.count, Bool.decide_eq_true]
  rfl

theorem count_free_baseCells {v : Nat} (hv : IsVersion v) :
    ((List.range (sideOf v)).map fun r => (List.range (sideOf v)).countP fun c => (baseCell v r c).isNone).sum =
      rawModules v := by
  have hfree : ((Finset.range (sideOf v) ×ˢ Finset.range (sideOf v)).filter fun rc =>
      (baseCell v rc.1 rc.2).isNone = true) =
        (Finset.range (sideOf v) ×ˢ Finset.range (sideOf v)) \ patternCells v := by
    ext ⟨r, c⟩
    rw [Finset.mem_filter, Finset.mem_sdiff, ← isSome_baseCell_iff_mem hv]
    simp
  have hcard := rawModules_add_card_patternCells hv
  rw [sum_countP_eq_card, hfree, Finset.card_sdiff_of_subset (patternCells_subset hv), Finset.card_product,
    Finset.card_range]
  omega

/-! ## The statement -/

section

variable {v : Nat} (hv : IsVersion v)

include hv

/-- The finders of the three corners, mirrored (R124). -/
theorem baseCell_finder {r c : Nat} (hr : r ≤ 7) (hc : c ≤ 7) :
    let ring := max (max r 3 - min r 3) (max c 3 - min c 3)
    let black := decide (ring ≠ 2 ∧ ring ≠ 4)
    baseCell v r c = some black ∧ baseCell v (sideOf v - 1 - r) c = some black ∧
      baseCell v r (sideOf v - 1 - c) = some black := by
  have hn := seventeen_le_sideOf v
  have hrow : sideOf v - 1 - r = sideOf v - 8 + (7 - r) := by omega
  have hcolumn : sideOf v - 1 - c = sideOf v - 8 + (7 - c) := by omega
  obtain ⟨htopLeft, hbottomLeft, htopRight⟩ := finderTemplates r hr c hc
  refine ⟨?_, ?_, ?_⟩
  · rw [baseCell_of_mem_cornerCells hv (mem_cornerCells.mpr (by omega)),
      cornerCell_topLeft hn (by omega) (by omega), htopLeft]
  · rw [baseCell_of_mem_cornerCells hv (mem_cornerCells.mpr (by omega)), hrow,
      cornerCell_bottomLeft hn (by omega) (by omega), hbottomLeft]
  · rw [baseCell_of_mem_cornerCells hv (mem_cornerCells.mpr (by omega)), hcolumn,
      cornerCell_topRight (by omega) (by omega), htopRight]

/-- The format strips at the upper left corner (R124). -/
theorem baseCell_format {i : Nat} (hi : i ≤ 8) (h6 : i ≠ 6) :
    baseCell v 8 i = some false ∧ baseCell v i 8 = some false := by
  have hn := seventeen_le_sideOf v
  obtain ⟨hrow, hcolumn⟩ := formatTemplates i hi h6
  constructor
  · rw [baseCell_of_mem_cornerCells hv (mem_cornerCells.mpr (by omega)),
      cornerCell_topLeft hn (by omega) (by omega), hrow]
  · rw [baseCell_of_mem_cornerCells hv (mem_cornerCells.mpr (by omega)),
      cornerCell_topLeft hn (by omega) (by omega), hcolumn]

/-- The format strips at the other corners and the dark module (R124). -/
theorem baseCell_farFormat {i : Nat} (hi : i ≤ 7) :
    baseCell v 8 (sideOf v - 1 - i) = some false ∧ baseCell v (sideOf v - 1 - i) 8 = some (decide (i = 7)) := by
  have hn := seventeen_le_sideOf v
  have hplace : sideOf v - 1 - i = sideOf v - 8 + (7 - i) := by omega
  obtain ⟨hrow, hcolumn⟩ := farFormatTemplates i hi
  constructor
  · rw [baseCell_of_mem_cornerCells hv (mem_cornerCells.mpr (by omega)), hplace,
      cornerCell_topRight (by omega) (by omega), hrow]
  · rw [baseCell_of_mem_cornerCells hv (mem_cornerCells.mpr (by omega)), hplace,
      cornerCell_bottomLeft hn (by omega) (by omega), hcolumn]

/-- The timing lines between the corners, the cell of each in the upper left corner included (R125). -/
theorem baseCell_timing {i : Nat} (h8 : 8 ≤ i) (hi : i ≤ sideOf v - 9) :
    baseCell v 6 i = some (decide (i % 2 = 0)) ∧ baseCell v i 6 = some (decide (i % 2 = 0)) := by
  have hn := seventeen_le_sideOf v
  obtain rfl | h9 := h8.eq_or_lt
  · rw [baseCell_of_mem_cornerCells hv (mem_cornerCells.mpr (by omega)),
      baseCell_of_mem_cornerCells hv (mem_cornerCells.mpr (by omega)),
      cornerCell_topLeft hn (by omega) (by omega), cornerCell_topLeft hn (by omega) (by omega)]
    decide
  · rw [baseCell_of_mem_timingCells hv (mem_timingCells.mpr (by omega)),
      baseCell_of_mem_timingCells hv (mem_timingCells.mpr (by omega)), timingCell_row ⟨h9, hi⟩,
      timingCell_column ⟨h9, hi⟩]
    exact ⟨rfl, rfl⟩

/-- An alignment pattern is black but for the ring about its centre (R126). -/
theorem baseCell_align {a b i j : Nat} (h : IsCentre (alignCount v) a b) (hi : i ≤ 4) (hj : j ≤ 4) :
    baseCell v (alignPos v a - 2 + i) (alignPos v b - 2 + j) =
      some (decide (max (max i 2 - min i 2) (max j 2 - min j 2) ≠ 1)) := by
  have htemplate : ∀ i ≤ 4, ∀ j ≤ 4, (alignRows.getD i 0).testBit j =
      decide (max (max i 2 - min i 2) (max j 2 - min j 2) ≠ 1) := by decide
  rw [baseCell_of_inAlign hv ⟨a, b, h, inPattern_add hv h hi hj⟩, alignCell_template hv h hi hj, htemplate i hi j hj]

/-- The version blocks hold the printed code (R100, R127). -/
theorem baseCell_version (h7 : 7 ≤ v) {i j : Nat} (hi : i ≤ 5) (hj : j ≤ 2) :
    baseCell v i (sideOf v - 11 + j) = some ((versionCodes.getD (v - 7) 0).testBit (3 * i + j)) ∧
      baseCell v (sideOf v - 11 + j) i = some ((versionCodes.getD (v - 7) 0).testBit (3 * i + j)) := by
  have hn := seventeen_le_sideOf v
  rw [← versionCode_eq_getD hv h7, baseCell_of_mem_versionCells (mem_versionCells.mpr (by omega)),
    baseCell_of_mem_versionCells (mem_versionCells.mpr (by omega))]
  exact versionCell_block h7 hi hj

end

/-- Settles O47: each pattern holds its template where no other pattern covers it, and the free cells are the others. -/
theorem fixedPatternsInEveryVersion : Obligations.FixedPatternsInEveryVersion := by
  intro v hv
  rw [getD_alignTable hv, tableEntry_capacityTable_zero hv]
  intro n centres last
  refine ⟨fun r c hr hc => baseCell_finder hv hr hc, fun i hi h6 => baseCell_format hv hi h6,
    fun i hi => baseCell_farFormat hv hi, fun i h8 hi => baseCell_timing hv h8 hi,
    fun p q hp hq hnot i j hi hj => baseCell_align hv ⟨hp, hq, hnot⟩ hi hj,
    fun h7 i j hi hj => baseCell_version hv h7 hi hj, count_free_baseCells hv⟩

end Sys2Proof.Machine
end

section
/-! SUPPORT. The penalties of SCORE (45_mask_score.md R137 to R142): what a run list says of its line, and each penalty
as a sum over the rows and columns of a grid. -/

namespace Sys2Proof.Machine

open Sys2Proof.Claims

/-! ## Run lists (R137) -/

/-- The run list of the rest of a line, read back, is the open run and that rest. -/
theorem lineOfRuns_runsFrom (col : Bool) (k : Nat) (line : List Bool) :
    lineOfRuns col (runsFrom col k line) = List.replicate k col ++ line := by
  induction line generalizing col k with
  | nil => cases col <;> simp [runsFrom, lineOfRuns]
  | cons x xs ih =>
    by_cases hx : x = col
    · subst hx
      rw [runsFrom, if_pos rfl, ih, List.replicate_succ', List.append_assoc, List.singleton_append]
    · obtain rfl := Bool.eq_not.mpr hx
      rw [runsFrom, if_neg hx, lineOfRuns, ih]
      rfl

/-- The run list ends in a white run, so its length is even from a black run on and odd from a white one on. -/
theorem length_runsFrom (col : Bool) (k : Nat) (line : List Bool) :
    (runsFrom col k line).length % 2 = (!col).toNat := by
  induction line generalizing col k with
  | nil => cases col <;> simp [runsFrom]
  | cons x xs ih =>
    by_cases hx : x = col
    · rw [runsFrom, if_pos hx, ih]
    · obtain rfl := Bool.eq_not.mpr hx
      rw [runsFrom, if_neg hx, List.length_cons, Nat.add_mod, ih]
      cases col <;> rfl

/-- From an open run that is not empty on, no run but the last is empty. -/
theorem runsFrom_pos {col : Bool} {k : Nat} (hk : 0 < k) (line : List Bool) {i : Nat}
    (hi : i + 1 < (runsFrom col k line).length) : 0 < (runsFrom col k line).getD i 0 := by
  induction line generalizing col k i with
  | nil =>
    cases col with
    | false => simp [runsFrom] at hi
    | true =>
      obtain rfl : i = 0 := by simpa [runsFrom] using hi
      exact hk
  | cons x xs ih =>
    by_cases hx : x = col
    · rw [runsFrom, if_pos hx] at hi ⊢
      exact ih k.succ_pos hi
    · rw [runsFrom, if_neg hx] at hi ⊢
      cases i with
      | zero => exact hk
      | succ i => exact ih Nat.one_pos (by simpa using hi)

/-- After its first two entries no run of a run list but the last is empty. -/
theorem runs_pos (line : List Bool) {i : Nat} (h2 : 2 ≤ i) (hi : i + 1 < (runs line).length) :
    0 < (runs line).getD i 0 := by
  obtain ⟨i, rfl⟩ := Nat.exists_eq_add_of_le' h2
  rcases line with _ | ⟨_ | _, xs⟩
  · simp [runs] at hi
  · exact runsFrom_pos Nat.one_pos xs (i := i) (Nat.lt_of_add_lt_add_right (n := 2) hi)
  · exact runsFrom_pos Nat.one_pos xs (i := i + 1) (Nat.lt_of_add_lt_add_right (n := 1) hi)

/-- Settles O53: a run list is the empty white run and the runs from an open black run on. -/
theorem runListDescribesItsLine : Obligations.RunListDescribesItsLine := by
  refine fun line => ⟨?_, ?_, ?_, fun i h2 hi => runs_pos line h2 hi⟩
  · cases line with
    | nil => rfl
    | cons x xs => exact lineOfRuns_runsFrom true 0 (x :: xs)
  · cases line with
    | nil => rfl
    | cons x xs => rw [runs, List.length_cons, Nat.add_mod, length_runsFrom]; rfl
  · cases line <;> rfl

/-! ## Blocks (R140) -/

/-- The 2 by 2 block of two rows from column `j` on has one colour (R140). -/
def oneColour (r r' : List Bool) (j : Nat) : Bool :=
  r.getD j false == r.getD (j + 1) false && r.getD j false == r'.getD j false &&
    r.getD j false == r'.getD (j + 1) false

/-- Counting from the first number on. -/
theorem countP_range_succ (p : Nat → Bool) (n : Nat) :
    (List.range (n + 1)).countP p = (if p 0 then 1 else 0) + (List.range n).countP fun i => p (i + 1) := by
  rw [List.range_succ_eq_map, List.countP_cons, List.countP_map, Nat.add_comm]
  rfl

/-- Two rows of one length: 3 for each column but the last where a block of one colour begins. -/
theorem pairPenaltyB_eq : ∀ {r r' : List Bool}, r.length = r'.length →
    pairPenaltyB r r' = 3 * (List.range (r.length - 1)).countP (oneColour r r')
  | [], [], _ => rfl
  | [_], [_], _ => rfl
  | a :: b :: r, c :: d :: r', h => by
    have hfirst : oneColour (a :: b :: r) (c :: d :: r') 0 = decide (a = b ∧ a = c ∧ a = d) := by
      simp [oneColour, Bool.and_assoc, Bool.beq_eq_decide_eq]
    have hlen : (a :: b :: r).length - 1 = (b :: r).length - 1 + 1 := rfl
    rw [pairPenaltyB, pairPenaltyB_eq (Nat.succ.inj h), hlen, countP_range_succ, hfirst, Nat.mul_add]
    simp only [decide_eq_true_eq, mul_ite]
    rfl

/-- Penalty (b), the blocks counted row by row (R140). -/
theorem penaltyB_eq {n : Nat} {g : List (List Bool)} (h : ∀ row ∈ g, row.length = n) :
    penaltyB g = 3 * ((List.range (g.length - 1)).map fun i =>
      (List.range (n - 1)).countP (oneColour (g.getD i []) (g.getD (i + 1) []))).sum := by
  induction g with
  | nil => rfl
  | cons r g ih =>
    cases g with
    | nil => rfl
    | cons r' g =>
      have hr : r.length = n := h r (by simp)
      have hr' : r'.length = n := h r' (by simp)
      have hlen : (r :: r' :: g).length - 1 = (r' :: g).length - 1 + 1 := rfl
      rw [penaltyB, ih fun row hrow => h row (List.mem_cons_of_mem _ hrow), pairPenaltyB_eq (hr.trans hr'.symm), hr,
        hlen, List.range_succ_eq_map, List.map_cons, List.map_map, List.sum_cons, Nat.mul_add]
      rfl

/-- Settles O54: row by row the penalty counts the blocks that begin in the row. -/
theorem penaltyBCountsTheBlocks : Obligations.PenaltyBCountsTheBlocks := by
  rintro n g ⟨hlen, hrows⟩
  rw [penaltyB_eq hrows, hlen]
  rfl

/-! ## Balance (R141) -/

/-- Settles O55: twenty times the distance of the ratio from one half is the integer quotient's fraction. -/
theorem penaltyDIsExact : Obligations.PenaltyDIsExact := by
  intro bk nn hnn _
  have hnn' : (0 : ℚ) < nn := by exact_mod_cast hnn
  have hfraction : |(bk : ℚ) / nn - 1 / 2| / (1 / 20) = (((20 * bk : Int) - 10 * nn).natAbs : ℚ) / nn := by
    have hscaled : (20 * bk - 10 * nn : ℚ) = ((bk : ℚ) / nn - 1 / 2) * (20 * nn) := by field_simp; ring
    rw [Nat.cast_natAbs]
    push_cast
    rw [hscaled, abs_mul, abs_of_pos (by positivity : (0 : ℚ) < 20 * nn)]
    field_simp
  rw [hfraction, Nat.floor_div_eq_div, darkPenalty]

/-! ## Rows and columns (R138, R139) -/

theorem linePenaltyA_eq (g : List Nat) : linePenaltyA g = runPenaltyA g := by
  have hentries : g = (List.range g.length).map fun i => g.getD i 0 :=
    List.ext_getElem (by simp) fun i hi _ => by simp [hi]
  conv_lhs => rw [hentries]
  rw [linePenaltyA, List.map_map]
  rfl

theorem linePenaltyC_eq (g : List Nat) : linePenaltyC g = runPenaltyC g := by
  rw [linePenaltyC, runPenaltyC, ← List.countP_eq_length_filter]
  congr 2
  funext t
  simp [finderLike, Bool.and_assoc, beq_eq_decide]

section

variable {n : Nat} {g : List (List Bool)} (hg : IsGrid n g)

include hg

theorem grid_eq_map_rowLine : g = (List.range n).map (rowLine n g) := by
  obtain ⟨hlen, hrows⟩ := hg
  refine List.ext_getElem (by simp [hlen]) fun i hi _ => ?_
  have hrow := hrows _ (List.getElem_mem hi)
  exact List.ext_getElem (by simp [rowLine, hrow]) fun j hj _ => by simp [rowLine, cellAt, hi, hj]

theorem transposed_eq_map_colLine : transposed n g = (List.range n).map (colLine n g) := by
  refine List.map_congr_left fun j _ => ?_
  obtain ⟨hlen, -⟩ := hg
  exact List.ext_getElem (by simp [colLine, hlen]) fun i hi _ => by
    rw [List.length_map] at hi
    simp [colLine, cellAt, hi]

/-- The penalty of the run lists of all lines is that of the rows and the columns. -/
theorem sum_lineRuns (p : List Nat → Nat) : ((lineRuns n g).map p).sum = overLines n g p := by
  have hlines : lineRuns n g =
      (List.range n).map (runs ∘ rowLine n g) ++ (List.range n).map (runs ∘ colLine n g) := by
    rw [lineRuns, transposed_eq_map_colLine hg, List.map_append, List.map_map,
      congrArg (List.map runs) (grid_eq_map_rowLine hg), List.map_map]
  rw [hlines, List.map_append, List.sum_append, List.map_map, List.map_map, overLines, List.sum_map_add]
  rfl

theorem penaltyA_eq : penaltyA n g = overLines n g runPenaltyA :=
  funext linePenaltyA_eq ▸ sum_lineRuns hg linePenaltyA

theorem penaltyC_eq : penaltyC n g = overLines n g runPenaltyC :=
  funext linePenaltyC_eq ▸ sum_lineRuns hg linePenaltyC

theorem penaltyD_eq : penaltyD n g = balancePenalty n g := by
  have hcount : blackCount g = ((List.range n).map fun i => (List.range n).countP fun j => cellAt g i j).sum := by
    rw [blackCount, congrArg (List.map _) (grid_eq_map_rowLine hg), List.map_map]
    simp [rowLine, List.countP_map, Function.comp_def]
  rw [penaltyD, darkPenalty, hcount, balancePenalty]
  push_cast
  rfl

/-- The score is that of the rules (R142). -/
theorem scoreOf_eq : scoreOf n g = ruleScore n g := by
  rw [scoreOf, penaltyA_eq hg, penaltyBCountsTheBlocks n g hg, penaltyC_eq hg, penaltyD_eq hg, ruleScore]

end

/-! ## SCORE (R147) -/

theorem State.isGrid_matrix (s : State) : IsGrid s.side s.matrix := by
  obtain ⟨-, -, -, hmatrix, -⟩ := engineReadsFollowMemory s
  exact hmatrix

theorem State.hasData_eq_true {s : State} (h : s.phase = .placed ∨ s.phase = .final) : s.hasData = true := by
  obtain h | h := h <;> simp [State.hasData, h]

theorem State.hasData_eq_false {s : State} (h : s.phase = .empty ∨ s.phase = .base) : s.hasData = false := by
  obtain h | h := h <;> simp [State.hasData, h]

/-- Settles O52: each penalty of the square is its reference over rows and columns. -/
theorem scoreReportsTheFourPenalties : Obligations.ScoreReportsTheFourPenalties := by
  refine ⟨fun s hphase => ?_, fun s hphase => ?_⟩
  · rw [exec, execScore, State.hasData_eq_false hphase]
    rfl
  · intro n a b c d
    have hg := s.isGrid_matrix
    have hscore : scoreOf n s.matrix = a + b + c + d := scoreOf_eq hg
    have hA : penaltyA n s.matrix = a := penaltyA_eq hg
    have hB : penaltyB s.matrix = b := penaltyBCountsTheBlocks n _ hg
    have hC : penaltyC n s.matrix = c := penaltyC_eq hg
    have hD : penaltyD n s.matrix = d := penaltyD_eq hg
    rw [exec, execScore, if_pos (State.hasData_eq_true hphase), ← hscore, ← hA, ← hB, ← hC, ← hD]
    exact ⟨_, rfl, rfl⟩

end Sys2Proof.Machine
end

section
/-! SUPPORT. The mask and the format information on the square (45_mask_score.md R134 to R136): what each cell holds
after APPLYMASK and WRITEFMT. -/

namespace Sys2Proof.Machine

open Sys2Proof.Claims

/-! ## The mask -/

/-- The mask inverts the data cells it selects, an unwritten one excepted, and no other cell (R135). -/
theorem State.read_maskInto_cell {s : State} (hver : s.version ≤ 40) (m : Nat) {r c : Nat} (hr : r < s.side)
    (hc : c < s.side) :
    (s.maskInto m).mem.read (cellAddr mtxBase r c) =
      if cellAt s.reserved r c = false ∧ maskAt m r c = true then
        (s.mem.read (cellAddr mtxBase r c)).map (· ^^^ 1)
      else s.mem.read (cellAddr mtxBase r c) := by
  rw [State.maskInto, read_mtx_mapSquare s _ hver r c hr hc]
  simp

/-- Settles O50: the mask functions are the printed conditions, and the mask writes data cells only. -/
theorem applymaskFlipsTheMaskedDataCells : Obligations.ApplymaskFlipsTheMaskedDataCells := by
  refine ⟨fun i j => by simp [maskAt], fun s mask => ⟨fun hphase => ?_, fun hphase hmask => ?_⟩,
    fun s mask hphase hver hmask => ?_⟩
  · rw [exec, execApplymask, State.hasData_eq_false hphase]
    rfl
  · rw [exec, execApplymask, if_pos (State.hasData_eq_true hphase), (maskOf_eq_none_iff mask).mpr hmask]
    rfl
  · refine ⟨(s.maskInto mask.toNat).finish, ?_, rfl, fun r c hr hc => State.read_maskInto_cell hver _ hr hc,
      fun a ha => State.read_maskInto hver _ (not_isDataCell_of_not_inMtxSquare ha)⟩
    rw [exec, execApplymask, if_pos (State.hasData_eq_true hphase), maskOf_eq_toNat hmask]

/-! ## The format cells -/

/-- The row of the column-8 strip that takes format bit `b`, and the column of the row-8 strip (R136). -/
def formatRowAt (n b : Nat) : Nat := if b < 6 then b else if b < 8 then b + 1 else n - 15 + b
def formatColAt (n b : Nat) : Nat := if b < 8 then n - 1 - b else if b = 8 then 7 else 14 - b

section

variable {n : Nat} (hn : 21 ≤ n)

include hn

theorem formatRows_eq_map : formatRows n = (List.range 15).map (formatRowAt n) := by
  simp [formatRows, formatRowAt, List.range_succ]
  omega

theorem formatCols_eq_map : formatCols n = (List.range 15).map (formatColAt n) := by
  simp [formatCols, formatColAt, List.range_succ]
  omega

theorem mem_formatRows {r : Nat} : r ∈ formatRows n ↔ (r ≤ 8 ∧ r ≠ 6) ∨ (n - 7 ≤ r ∧ r < n) := by
  simp only [formatRows, List.mem_cons, List.not_mem_nil, or_false]
  omega

theorem mem_formatCols {c : Nat} : c ∈ formatCols n ↔ (c ≤ 7 ∧ c ≠ 6) ∨ (n - 8 ≤ c ∧ c < n) := by
  simp only [formatCols, List.mem_cons, List.not_mem_nil, or_false]
  omega

theorem getD_formatRows {b : Nat} (hb : b < 15) : (formatRows n).getD b 0 = formatRowAt n b := by
  simp [formatRows_eq_map hn, hb]

theorem getD_formatCols {b : Nat} (hb : b < 15) : (formatCols n).getD b 0 = formatColAt n b := by
  simp [formatCols_eq_map hn, hb]

theorem formatRowAt_mem {b : Nat} (hb : b < 15) : formatRowAt n b ∈ formatRows n :=
  formatRows_eq_map hn ▸ List.mem_map_of_mem (List.mem_range.mpr hb)

theorem formatColAt_mem {b : Nat} (hb : b < 15) : formatColAt n b ∈ formatCols n :=
  formatCols_eq_map hn ▸ List.mem_map_of_mem (List.mem_range.mpr hb)

theorem formatRowAt_lt {b : Nat} (hb : b < 15) : formatRowAt n b < n := by
  have := (mem_formatRows hn).mp (formatRowAt_mem hn hb)
  omega

theorem formatColAt_lt {b : Nat} (hb : b < 15) : formatColAt n b < n := by
  have := (mem_formatCols hn).mp (formatColAt_mem hn hb)
  omega

/-- The strips have no repeats. -/
theorem formatRowAt_inj {b b' : Nat} (h : formatRowAt n b = formatRowAt n b') : b = b' := by
  unfold formatRowAt at h
  split_ifs at h <;> omega

theorem formatColAt_inj {b b' : Nat} (hb : b < 15) (hb' : b' < 15) (h : formatColAt n b = formatColAt n b') :
    b = b' := by
  unfold formatColAt at h
  split_ifs at h <;> omega

theorem idxOf_formatRowAt {b : Nat} (hb : b < 15) : (formatRows n).idxOf (formatRowAt n b) = b := by
  have hmem := formatRowAt_mem hn hb
  have hlt : (formatRows n).idxOf (formatRowAt n b) < 15 := List.idxOf_lt_length_of_mem hmem
  exact formatRowAt_inj hn ((getD_formatRows hn hlt).symm.trans (getD_idxOf hmem))

theorem idxOf_formatColAt {b : Nat} (hb : b < 15) : (formatCols n).idxOf (formatColAt n b) = b := by
  have hmem := formatColAt_mem hn hb
  have hlt : (formatCols n).idxOf (formatColAt n b) < 15 := List.idxOf_lt_length_of_mem hmem
  exact formatColAt_inj hn hlt hb ((getD_formatCols hn hlt).symm.trans (getD_idxOf hmem))

/-- A cell of the column-8 strip takes its bit of the code. -/
theorem formatCell_column (code : Nat) {b : Nat} (hb : b < 15) :
    formatCell n code (formatRowAt n b) 8 = some (code.testBit b) := by
  rw [formatCell, if_pos ⟨rfl, formatRowAt_mem hn hb⟩, idxOf_formatRowAt hn hb]

/-- A cell of the row-8 strip takes its bit of the code. -/
theorem formatCell_row (code : Nat) {b : Nat} (hb : b < 15) :
    formatCell n code 8 (formatColAt n b) = some (code.testBit b) := by
  have hmem := formatColAt_mem hn hb
  have h8 : formatColAt n b ≠ 8 := fun h8 => by
    have := (mem_formatCols hn).mp hmem
    omega
  rw [formatCell, if_neg (fun h => h8 h.1), if_pos ⟨rfl, hmem⟩, idxOf_formatColAt hn hb]

theorem formatBitAt_column (code : Nat) {b : Nat} (hb : b < 15) :
    formatBitAt n code (formatRowAt n b) 8 = some (code.testBit b) := by
  unfold formatRowAt
  split_ifs with h6 h8
  · rw [formatBitAt, if_pos ⟨rfl, by omega⟩]
  · rw [formatBitAt, if_neg (by omega), if_pos ⟨rfl, by omega⟩, Nat.add_sub_cancel]
  · have hbit : n - 15 + b + 15 - n = b := by omega
    rw [formatBitAt, if_neg (by omega), if_neg (by omega), if_pos ⟨rfl, by omega⟩, hbit]

theorem formatBitAt_row (code : Nat) {b : Nat} (hb : b < 15) :
    formatBitAt n code 8 (formatColAt n b) = some (code.testBit b) := by
  unfold formatColAt
  split_ifs with hright hseven
  · have hbit : n - 1 - (n - 1 - b) = b := by omega
    rw [formatBitAt, if_neg (by omega), if_neg (by omega), if_neg (by omega), if_pos ⟨rfl, by omega⟩, hbit]
  · rw [formatBitAt, if_neg (by omega), if_neg (by omega), if_neg (by omega), if_neg (by omega), if_pos ⟨rfl, rfl⟩,
      hseven]
  · have hbit : 14 - (14 - b) = b := by omega
    rw [formatBitAt, if_neg (by omega), if_neg (by omega), if_neg (by omega), if_neg (by omega), if_neg (by omega),
      if_pos ⟨rfl, by omega⟩, hbit]

/-- The two strips give every cell of the symbol the same format bit, or none. -/
theorem formatCell_eq_formatBitAt (code r c : Nat) : formatCell n code r c = formatBitAt n code r c := by
  by_cases hcolumn : c = 8 ∧ r ∈ formatRows n
  · obtain ⟨rfl, hr⟩ := hcolumn
    obtain ⟨b, hb, rfl⟩ := List.mem_map.mp (formatRows_eq_map hn ▸ hr)
    rw [List.mem_range] at hb
    rw [formatCell_column hn code hb, formatBitAt_column hn code hb]
  by_cases hrow : r = 8 ∧ c ∈ formatCols n
  · obtain ⟨rfl, hc⟩ := hrow
    obtain ⟨b, hb, rfl⟩ := List.mem_map.mp (formatCols_eq_map hn ▸ hc)
    rw [List.mem_range] at hb
    rw [formatCell_row hn code hb, formatBitAt_row hn code hb]
  · rw [formatCell, if_neg hcolumn, if_neg hrow]
    rw [mem_formatRows hn] at hcolumn
    rw [mem_formatCols hn] at hrow
    simp (disch := omega) only [formatBitAt, if_neg]

end

/-! ## WRITEFMT -/

theorem State.twentyOne_le_side {s : State} (h : IsVersion s.version) : 21 ≤ s.side := twentyOne_le_sideOf h

/-- A format cell takes its bit, and every other cell keeps its content (R136). -/
theorem State.read_formatInto_cell {s : State} (hver : s.version ≤ 40) (e : Level) (m : Nat) {r c : Nat}
    (hr : r < s.side) (hc : c < s.side) :
    (s.formatInto e m).mem.read (cellAddr mtxBase r c) =
      ((formatCell s.side (formatCode e m) r c).map cellByte).or (s.mem.read (cellAddr mtxBase r c)) :=
  read_mtx_mapSquare s _ hver r c hr hc

/-- WRITEFMT checks the phase, then ECC, then MASK (R146). -/
theorem exec_writefmt_failed (s : State) (ecc : BitVec 3) (mask : BitVec 4) :
    (s.phase = .empty → exec (.writefmt ecc mask) s = .next (failed s .sequenceError)) ∧
    (s.phase ≠ .empty → 3 < ecc.toNat → exec (.writefmt ecc mask) s = .next (failed s .invalidECCLevel)) ∧
    (s.phase ≠ .empty → ecc.toNat ≤ 3 → 7 < mask.toNat →
      exec (.writefmt ecc mask) s = .next (failed s .invalidMask)) := by
  refine ⟨fun hphase => ?_, fun hphase hecc => ?_, fun hphase hecc hmask => ?_⟩
  · simp only [exec, execWritefmt, State.hasBase, hphase]
    rfl
  · rw [exec, execWritefmt, if_pos (s.hasBase_iff.mpr hphase), (levelOf_eq_none_iff ecc).mpr hecc]
    rfl
  · obtain ⟨e, he⟩ := exists_levelOf hecc
    rw [exec, execWritefmt, if_pos (s.hasBase_iff.mpr hphase), he, (maskOf_eq_none_iff mask).mpr hmask]
    rfl

/-- What WRITEFMT of a level and a mask does (R146). -/
theorem exec_writefmt_eq {s : State} (hphase : s.phase ≠ .empty) {ecc : BitVec 3} {mask : BitVec 4} {e : Level}
    (hecc : levelOf ecc = some e) (hmask : mask.toNat ≤ 7) :
    exec (.writefmt ecc mask) s =
      .next { s.formatInto e mask.toNat with res0 := BitVec.ofNat 32 (printedFormat e mask.toNat) }.finish := by
  rw [exec, execWritefmt, if_pos (s.hasBase_iff.mpr hphase), hecc, maskOf_eq_toNat hmask]
  simp only [formatCode_eq_printedFormat e hmask]

/-- Settles O51: each strip gives bit `b` to its `b`-th cell, and no other cell is one of the 30. -/
theorem writefmtWritesBothStrips : Obligations.WritefmtWritesBothStrips := by
  refine ⟨exec_writefmt_failed, fun s ecc mask hphase hv hecc hmask => ?_⟩
  intro n code rows cols
  obtain ⟨-, h40⟩ := id hv
  have hn := State.twentyOne_le_side hv
  obtain ⟨e, he⟩ := exists_levelOf hecc
  have hcode : code = printedFormat e mask.toNat := by
    rw [printedFormat, ← (levelOf_eq_some_iff ecc e).mp he]
  have hbit : ∀ r c b, r < n → c < n → formatCell n code r c = some (code.testBit b) →
      (s.formatInto e mask.toNat).mem.read (cellAddr mtxBase r c) = some (if code.testBit b then 1 else 0) := by
    intro r c b hr hc hcell
    rw [State.read_formatInto_cell h40 _ _ hr hc, formatCode_eq_printedFormat e hmask, ← hcode, hcell]
    rfl
  refine ⟨_, exec_writefmt_eq hphase he hmask, by rw [hcode]; rfl, fun b hb => ⟨?_, ?_⟩, fun a ha => ?_⟩
  · rw [show rows.getD b 0 = formatRowAt n b from getD_formatRows hn hb]
    exact hbit _ _ b (formatRowAt_lt hn hb) (by omega) (formatCell_column hn code hb)
  · rw [show cols.getD b 0 = formatColAt n b from getD_formatCols hn hb]
    exact hbit _ _ b (by omega) (formatColAt_lt hn hb) (formatCell_row hn code hb)
  · exact State.read_formatInto h40 e _ fun h => ha h.2

end Sys2Proof.Machine
end

section
/-! SUPPORT. SELECT (45_mask_score.md R143, R144, R148): the committed cells, the grid each trial scores, and the choice
of the mask. -/

namespace Sys2Proof.Machine

open Sys2Proof.Claims

/-! ## The committed cells -/

section

variable {s : State} (hv : IsVersion s.version) (e : Level) {m : Nat}

include hv

/-- A committed cell takes its format bit, or else what the mask leaves there (R135, R136). -/
theorem State.read_commit_cell (hm : m ≤ 7) {r c : Nat} (hr : r < s.side) (hc : c < s.side) :
    ((s.maskInto m).formatInto e m).mem.read (cellAddr mtxBase r c) =
      ((formatBitAt s.side (printedFormat e m) r c).map cellByte).or
        (if cellAt s.reserved r c = false ∧ maskAt m r c = true then
          (s.mem.read (cellAddr mtxBase r c)).map (· ^^^ 1)
        else s.mem.read (cellAddr mtxBase r c)) := by
  obtain ⟨-, h40⟩ := id hv
  rw [State.read_formatInto_cell (s := s.maskInto m) h40 e m hr hc, State.read_maskInto_cell h40 m hr hc,
    formatCode_eq_printedFormat e hm]
  exact congrArg (fun bit => (Option.map cellByte bit).or _)
    (formatCell_eq_formatBitAt (State.twentyOne_le_side hv) _ r c)

/-- A commit changes cells of the square only. -/
theorem State.read_commit_outside (m : Nat) {a : Nat} (ha : ¬ InMtxSquare s.side a) :
    ((s.maskInto m).formatInto e m).mem.read a = s.mem.read a :=
  State.read_selectMask hv.2 e (.fixed m) (not_isDataCell_of_not_inMtxSquare ha) fun h => ha h.1

end

/-- What SELECT of a level does in PLACED (R148). -/
theorem exec_select_eq {s : State} (hphase : s.phase = .placed) {ecc : BitVec 3} {mask : BitVec 4} {e : Level}
    {choice : Choice Nat} (hecc : ecc.toNat = levelCode e) (hmask : maskChoice mask = some choice) :
    exec (.select ecc mask) s = .next (s.selectMask e choice).finish := by
  rw [exec, execSelect, if_pos hphase, (levelOf_eq_some_iff ecc e).mpr hecc, hmask]

/-- Settles O56: the forced choice commits the named mask. -/
theorem forcedSelectCommitsTheMask : Obligations.ForcedSelectCommitsTheMask := by
  intro s ecc mask e hphase hv hecc hmask
  have hchoice : maskChoice mask = some (.fixed mask.toNat) := by
    rw [maskChoice, if_neg (by omega), maskOf_eq_toNat hmask]
    rfl
  refine ⟨_, exec_select_eq hphase hecc hchoice, rfl, fun r c hr hc => ?_, fun a ha =>
    State.read_commit_outside hv e _ ha⟩
  refine (State.read_commit_cell hv e hmask hr hc).trans ?_
  cases formatBitAt s.side (printedFormat e mask.toNat) r c <;> rfl

/-! ## The trials (R143) -/

/-- Grids of one side that agree on every cell are equal. -/
theorem grid_ext {n : Nat} {g g' : List (List Bool)} (hg : IsGrid n g) (hg' : IsGrid n g')
    (h : ∀ r c, r < n → c < n → cellAt g r c = cellAt g' r c) : g = g' := by
  rw [grid_eq_map_rowLine hg, grid_eq_map_rowLine hg']
  refine List.map_congr_left fun r hr => List.map_congr_left fun c hc => ?_
  exact h r c (List.mem_range.mp hr) (List.mem_range.mp hc)

section

variable {n : Nat} {g : List (List Bool)} (hg : IsGrid n g) (f : Nat → Nat → Bool → Bool)

include hg

theorem isGrid_mapIdx : IsGrid n (g.mapIdx fun r row => row.mapIdx (f r)) := by
  obtain ⟨hlen, hrows⟩ := hg
  refine ⟨by simp [hlen], fun row hrow => ?_⟩
  obtain ⟨r, hr, rfl⟩ := List.mem_mapIdx.mp hrow
  simp [hrows]

theorem cellAt_mapIdx {r c : Nat} (hr : r < n) (hc : c < n) :
    cellAt (g.mapIdx fun r row => row.mapIdx (f r)) r c = f r c (cellAt g r c) := by
  obtain ⟨hlen, hrows⟩ := hg
  have hrow : r < g.length := by omega
  have hcell : c < g[r].length := by rw [hrows _ (List.getElem_mem hrow)]; exact hc
  simp [cellAt, hrow, hcell]

end

theorem isGrid_trialGrid (s : State) (code m : Nat) : IsGrid s.side (trialGrid s code m) := by
  simp [IsGrid, trialGrid]

/-- A cell of the rule's grid takes its format bit, or else the masked cell. -/
theorem cellAt_trialGrid (s : State) (code m : Nat) {r c : Nat} (hr : r < s.side) (hc : c < s.side) :
    cellAt (trialGrid s code m) r c =
      (formatBitAt s.side code r c).getD ((cellAt s.matrix r c).xor (!cellAt s.reserved r c && maskAt m r c)) := by
  simp only [cellAt, trialGrid, List.getD_eq_getElem?_getD, List.getElem?_map, List.getElem?_range hr,
    List.getElem?_range hc, Option.map_some, Option.getD_some]
  cases formatBitAt s.side code r c <;> rfl

/-- The grid a trial scores is the rule's (R143). -/
theorem State.trialGrid_eq {s : State} (hv : IsVersion s.version) (e : Level) {m : Nat} (hm : m ≤ 7) :
    formatGrid s.side (formatCode e m) (maskGrid m s.reserved s.matrix) = trialGrid s (printedFormat e m) m := by
  have hmasked : IsGrid s.side (maskGrid m s.reserved s.matrix) := isGrid_mapIdx s.isGrid_matrix _
  refine grid_ext (isGrid_mapIdx hmasked _) (isGrid_trialGrid _ _ _) fun r c hr hc => ?_
  have hmask : cellAt (maskGrid m s.reserved s.matrix) r c =
      (cellAt s.matrix r c).xor (!cellAt s.reserved r c && maskAt m r c) := by
    rw [maskGrid, cellAt_mapIdx s.isGrid_matrix _ hr hc]
    cases !cellAt s.reserved r c && maskAt m r c <;> simp
  rw [cellAt_trialGrid s _ m hr hc, formatGrid, cellAt_mapIdx hmasked _ hr hc, hmask, formatCode_eq_printedFormat e hm,
    formatCell_eq_formatBitAt (State.twentyOne_le_side hv)]

/-- The scoreboard holds the rule's score of each trial (R142, R143). -/
theorem State.getD_trialScores {s : State} (hv : IsVersion s.version) (e : Level) {m : Nat} (hm : m < 8) :
    (trialScores s.side e s.reserved s.matrix).toList.getD m 0 =
      BitVec.ofNat 32 (ruleScore s.side (trialGrid s (printedFormat e m) m)) := by
  have hlist : (trialScores s.side e s.reserved s.matrix).toList = (List.range 8).map fun m =>
    BitVec.ofNat 32 (trialScore s.side e s.reserved s.matrix m) := rfl
  rw [hlist, List.getD_eq_getElem?_getD, List.getElem?_map, List.getElem?_range hm, Option.map_some, Option.getD_some,
    trialScore, State.trialGrid_eq hv e (by omega), scoreOf_eq (isGrid_trialGrid _ _ _)]

/-! ## The choice (R143) -/

/-- `b` is the least of the numbers below `k` where `f` is least. -/
def IsFirstLeast (f : Nat → Nat) (k b : Nat) : Prop :=
  b < k ∧ ∀ m, m < k → f b ≤ f m ∧ (m < b → f b < f m)

/-- Keeping the first number unless a later one is less finds the first least one. -/
theorem isFirstLeast_foldl (f : Nat → Nat) (k : Nat) :
    IsFirstLeast f (k + 1) ((List.range (k + 1)).foldl (fun best m => if f m < f best then m else best) 0) := by
  induction k with
  | zero =>
    refine ⟨by simp, fun m hm => ?_⟩
    obtain rfl := Nat.lt_one_iff.mp hm
    simp
  | succ k ih =>
    rw [List.range_succ, List.foldl_append]
    generalize (List.range (k + 1)).foldl (fun best m => if f m < f best then m else best) 0 = b at ih
    obtain ⟨hb, hleast⟩ := ih
    simp only [List.foldl_cons, List.foldl_nil]
    split
    · next hless =>
      refine ⟨Nat.lt_succ_self _, fun m hm => ?_⟩
      obtain hm | rfl := Nat.lt_succ_iff_lt_or_eq.mp hm
      · have := hleast m hm
        omega
      · omega
    · next hless =>
      refine ⟨hb.trans (Nat.lt_succ_self _), fun m hm => ?_⟩
      obtain hm | rfl := Nat.lt_succ_iff_lt_or_eq.mp hm
      · exact hleast m hm
      · omega

theorem isFirstLeast_bestMask (scores : Vector Word 8) :
    IsFirstLeast (fun m => (scores.toList.getD m 0).toNat) 8 (bestMask scores) :=
  isFirstLeast_foldl _ 7

/-- An automatic selection changes the fields R148 lists and the draw counter. The scoreboard and the mask are named, so
that a use of this lemma does not unfold the eight trials. -/
theorem State.autoMask_eq {s : State} {e : Level} {scores : Vector Word 8} {best : Nat}
    (hscores : trialScores s.side e s.reserved s.matrix = scores) (hbest : bestMask scores = best) :
    s.autoMask e = { s with
      res0 := BitVec.ofNat 32 best, res1 := scores.toList.getD best 0, sb := scores, phase := .final
      mem := ((s.maskInto best).formatInto e best).mem, draws := s.draws + s.side * s.side } := by
  rw [State.autoMask, hscores, hbest]
  rfl

/-- Settles O57: the automatic choice commits the first mask with the least of the eight trial scores. -/
theorem automaticSelectCommitsTheBestMask : Obligations.AutomaticSelectCommitsTheBestMask := by
  intro s ecc e hphase hv hecc
  obtain ⟨scores, hscores⟩ : ∃ scores, trialScores s.side e s.reserved s.matrix = scores := ⟨_, rfl⟩
  obtain ⟨best, hbest⟩ : ∃ best, bestMask scores = best := ⟨_, rfl⟩
  obtain ⟨hlt, hleast⟩ := hbest ▸ isFirstLeast_bestMask scores
  have hexec := exec_select_eq (mask := 15) hphase hecc rfl
  rw [State.selectMask, State.autoMask_eq hscores hbest] at hexec
  refine ⟨_, best, hexec, hlt, rfl, fun m hm => ?_, hleast, fun r c hr hc => ?_, fun a ha =>
    State.read_commit_outside hv e best ha⟩
  · exact (congrArg (·.toList.getD m 0) hscores).symm.trans (State.getD_trialScores hv e hm)
  · refine (State.read_commit_cell hv e (by omega) hr hc).trans ?_
    cases formatBitAt s.side (printedFormat e best) r c <;> rfl

end Sys2Proof.Machine
end

section
/-! SUPPORT. NOP and TBLINIT (40_gf_tables.md R83, 46_generate.md R149), and the checks of GENERATE (R151). -/

namespace Sys2Proof.Machine

open Sys2Proof.Claims

/-! ## NOP and TBLINIT -/

/-- Settles O33: both are their completion written out. -/
theorem nopAndTblinitComplete : Obligations.NopAndTblinitComplete := fun _ => ⟨rfl, rfl⟩

/-! ## The checks -/

theorem maskChoice_forced {mask : BitVec 4} (h : mask.toNat ≤ 7) : maskChoice mask = some (.fixed mask.toNat) := by
  rw [maskChoice, if_neg (by omega), maskOf_eq_toNat h]
  rfl

theorem maskChoice_automatic {mask : BitVec 4} (h : mask.toNat = 15) : maskChoice mask = some .auto := if_pos h

theorem exists_maskChoice {mask : BitVec 4} (h : mask.toNat ≤ 7 ∨ mask.toNat = 15) :
    ∃ c, maskChoice mask = some c :=
  h.elim (fun h => ⟨_, maskChoice_forced h⟩) fun h => ⟨_, maskChoice_automatic h⟩

/-- The least version that fits is the one the automatic choice finds (R97). -/
theorem autoVersion_of_least {len v : Nat} {mo : Mode} {e : Level} (hv : IsVersion v)
    (hfits : len ≤ maxDataLength v mo e) (hleast : ∀ u, 1 ≤ u → u < v → maxDataLength u mo e < len) :
    autoVersion len mo e = some v := by
  unfold IsVersion at hv
  refine List.find?_range'_eq_some.mpr ⟨decide_eq_true hfits, List.mem_range'_1.mpr (by omega), fun u h1 hu => ?_⟩
  simpa using hleast u h1 hu

/-- GENERATE works in the named version, or in the least that fits (R151). -/
theorem resolveVersion_of_fits {ver : BitVec 6} {len v : Nat} {mo : Mode} {e : Level} (hv : IsVersion v)
    (hfits : len ≤ maxDataLength v mo e)
    (hver : ver.toNat = v ∨ (ver.toNat = 0 ∧ ∀ u, 1 ≤ u → u < v → maxDataLength u mo e < len)) :
    resolveVersion ver len mo e = .ok v := by
  obtain rfl | ⟨h0, hleast⟩ := hver
  · have hchoice : versionChoice ver = some (.fixed ver.toNat) := by
      rw [versionChoice, if_neg (Nat.ne_of_gt hv.1), versionOf_eq_toNat hv]
      rfl
    simp only [resolveVersion, hchoice, if_neg (Nat.not_lt.mpr hfits)]
  · simp only [resolveVersion, versionChoice, h0, if_true, autoVersion_of_least hv hfits hleast]

/-! ## The folded input (R105) -/

theorem foldedInput_eq_foldFor (s : State) (mo : Mode) : foldedInput s mo = foldFor mo s.inputBytes s.sampledFold := by
  unfold foldedInput
  split
  · next h =>
    obtain ⟨rfl, hfold⟩ := h
    rw [hfold]
    rfl
  · next h => exact (foldFor_eq_self (by simpa [or_iff_not_imp_left] using h) _).symm

@[simp] theorem length_foldedInput (s : State) (mo : Mode) : (foldedInput s mo).length = s.len.toNat := by
  unfold foldedInput
  split <;> simp

theorem foldedInput_of_strict {s : State} {mo : Mode} (h : validFor mo s.inputBytes false = true) :
    foldedInput s mo = s.inputBytes :=
  (foldedInput_eq_foldFor s mo).trans (foldFor_of_strict h _)

/-- Folded valid input is valid without folding (R105). -/
theorem validFor_foldedInput {s : State} {mo : Mode} (h : validFor mo s.inputBytes s.sampledFold = true) :
    validFor mo (foldedInput s mo) false = true := by
  rw [foldedInput_eq_foldFor]
  cases mo with
  | numeric | octet => exact h
  | alphanumeric =>
    cases hfold : s.sampledFold with
    | false => rwa [hfold] at h
    | true => simpa [validFor] using all_isAlnum_foldFor (hfold ▸ h)

/-! ## The command -/

/-- What GENERATE does once its checks pass (R151). -/
theorem exec_generate_eq {s : State} {ecc : BitVec 3} {ver : BitVec 6} {mode mask : BitVec 4} {e : Level} {v : Nat}
    {c : Choice Nat} (h : GenerateAccepts s ecc ver mode mask e v) (hc : maskChoice mask = some c) :
    exec (.generate ecc ver mode mask) s =
      .next { (s.drew s.len.toNat).generateInto v e (workingMode mode s.inputBytes)
          (foldedInput s (workingMode mode s.inputBytes)) c with
        res2 := BitVec.ofNat 32 v
        res3 := BitVec.ofNat 32 (modeCode (workingMode mode s.inputBytes))
        res4 := BitVec.ofNat 32 (totalCodewords v) }.finish := by
  obtain ⟨hecc, hmode, hlen, hvalid, hv, hfits, hver, -⟩ := h
  obtain ⟨cm, hcm⟩ := exists_modeChoice hmode
  have hsize : ¬ s.len.toNat > ibufSize := Nat.not_lt.mpr hlen
  simp only [exec, execGenerate, hcm, resolveMode_of_modeChoice hcm, if_neg hsize, hvalid, Bool.true_eq_false, if_false,
    (levelOf_eq_some_iff ecc e).mpr hecc, resolveVersion_of_fits hv hfits hver, hc, foldedInput_eq_foldFor]

theorem generateAccepts_of_named {s : State} {ecc : BitVec 3} {ver : BitVec 6} {mode mask : BitVec 4} {e : Level}
    {mo : Mode} (hecc : ecc.toNat = levelCode e) (hmode : mode.toNat = modeCode mo) (hver : IsVersion ver.toNat)
    (hlen : s.len.toNat ≤ 8192) (hvalid : validFor mo s.inputBytes false = true)
    (hfits : s.len.toNat ≤ maxDataLength ver.toNat mo e) (hmask : mask.toNat ≤ 7 ∨ mask.toNat = 15) :
    GenerateAccepts s ecc ver mode mask e ver.toNat := by
  have hlegal : mode.toNat = 0 ∨ mode.toNat = 1 ∨ mode.toNat = 2 ∨ mode.toNat = 4 := by
    rw [hmode]
    cases mo <;> decide
  rw [GenerateAccepts, workingMode_of_modeCode hmode]
  exact ⟨hecc, hlegal, hlen, validFor_of_strict hvalid _, hver, hfits, .inl rfl, hmask⟩

end Sys2Proof.Machine
end

section
/-! SUPPORT. The symbol GENERATE builds (46_generate.md R151): the cells, the codewords and the reports that the
pipeline leaves. -/

namespace Sys2Proof.Machine

open Sys2Proof.Claims

/-! ## The symbol before its mask selection -/

/-- The pipeline of R151 up to the mask selection: codewords, interleave, base, placement. -/
def State.symbolInto (s : State) (v : Nat) (e : Level) (mo : Mode) (data : List Byte) : State :=
  (((s.packInto v e mo data).augmentInto v e).buildBaseInto v).placeInto

/-- The interleave builds the tables it reads, so that GENERATE's own build changes nothing (R82, R151). -/
theorem State.generateInto_eq (s : State) (v : Nat) (e : Level) (mo : Mode) (data : List Byte) (c : Choice Nat) :
    s.generateInto v e mo data c = (s.symbolInto v e mo data).selectMask e c := by
  have htables : (s.needTables.packInto v e mo data).augmentInto v e = (s.packInto v e mo data).augmentInto v e := rfl
  rw [State.generateInto, htables]
  rfl

/-- What the pipeline has changed before the mask selection (R151). -/
theorem State.symbolInto_frame (s : State) (v : Nat) (e : Level) (mo : Mode) (data : List Byte) :
    ∃ m n, s.symbolInto v e mo data =
      { s with tables := some s.gf, mem := m, mver := BitVec.ofNat 6 v, phase := .placed, draws := n } := by
  simp only [State.symbolInto, State.placeInto, State.buildBaseInto, State.augmentInto, State.needTables, State.drew]
  exact ⟨_, _, rfl⟩

theorem State.version_buildBaseInto (s : State) {v : Nat} (hv : IsVersion v) : (s.buildBaseInto v).version = v := by
  unfold IsVersion at hv
  simp only [State.version, State.buildBaseInto, BitVec.toNat_ofNat]
  omega

theorem State.version_symbolInto (s : State) {v : Nat} (hv : IsVersion v) (e : Level) (mo : Mode) (data : List Byte) :
    (s.symbolInto v e mo data).version = v := ((s.packInto v e mo data).augmentInto v e).version_buildBaseInto hv

/-! ## Where the squares lie -/

theorem not_inMtxSquare_of_lt {n a : Nat} (h : a < mtxBase) : ¬ InMtxSquare n a := by
  rintro ⟨r, c, -, -, rfl⟩
  unfold cellAddr at h
  omega

theorem not_inRsvSquare_of_lt {n a : Nat} (h : a < rsvBase) : ¬ InRsvSquare n a := by
  rintro ⟨r, c, -, -, rfl⟩
  unfold cellAddr at h
  omega

theorem not_inMtxSquare_rsv {n : Nat} (hn : n ≤ maxSide) (r c : Nat) : ¬ InMtxSquare n (cellAddr rsvBase r c) := by
  rintro ⟨r', c', hr', hc', haddr⟩
  unfold cellAddr mtxBase rsvBase at haddr
  unfold maxSide at hn
  omega

theorem sideOf_le_maxSide {v : Nat} (hv : IsVersion v) : sideOf v ≤ maxSide := by
  unfold IsVersion at hv
  unfold sideOf maxSide
  omega

/-! ## The cells of the symbol -/

section

variable (s : State) {v : Nat} (hv : IsVersion v)

include hv

/-- The scan skips exactly the cells with a fixed pattern (R128, R129). -/
theorem State.cellAt_reserved_buildBaseInto {r c : Nat} (hr : r < sideOf v) (hc : c < sideOf v) :
    cellAt (s.buildBaseInto v).reserved r c = (baseCell v r c).isSome := by
  have hside : (s.buildBaseInto v).side = sideOf v := congrArg sideOf (s.version_buildBaseInto hv)
  rw [State.cellAt_reserved _ r c (hside ▸ hr) (hside ▸ hc), s.read_buildBaseInto_rsv hv hr hc]
  cases (baseCell v r c).isSome <;> rfl

/-- PLACE on a base matrix gives each cell without a pattern a bit, and keeps the patterns (R128, R133). -/
theorem State.isSome_read_placeInto_buildBaseInto {r c : Nat} (hr : r < sideOf v) (hc : c < sideOf v) :
    ((s.buildBaseInto v).placeInto.mem.read (cellAddr mtxBase r c)).isSome = true := by
  have hversion := s.version_buildBaseInto hv
  have h40 : (s.buildBaseInto v).version ≤ 40 := hversion.trans_le hv.2
  have hside : (s.buildBaseInto v).side = sideOf v := congrArg sideOf hversion
  have hcell := s.cellAt_reserved_buildBaseInto hv hr hc
  by_cases hpattern : (baseCell v r c).isSome = true
  · rw [State.read_placeInto_of_not_scanned h40 fun rc hrc haddr => ?_, s.read_buildBaseInto_mtx hv hr hc,
      Option.isSome_map, hpattern]
    obtain ⟨-, hc', hfree⟩ := free_of_mem_scanCells hrc
    have hn := sideOf_le_maxSide hv
    rw [hside] at hc'
    unfold maxSide at hn
    obtain ⟨rfl, rfl⟩ := cellAddr_inj (by omega) (by omega) haddr
    simp [hcell, hpattern] at hfree
  · have h6 : c ≠ 6 := fun h6 => hpattern (h6 ▸ isSome_baseCell_column_six v r hr)
    have hscan : (r, c) ∈ scanCells (s.buildBaseInto v).side (s.buildBaseInto v).reserved :=
      hside ▸ mem_scanCells hr hc h6 (by simpa [hcell] using hpattern)
    obtain ⟨k, hk⟩ := List.getElem?_of_mem hscan
    rw [State.read_placeInto_scanned h40 hk]
    rfl

variable (e : Level) (mo : Mode) (data : List Byte)

/-- Outside the two squares the symbol leaves what the interleave leaves. -/
theorem State.read_symbolInto_outside {a : Nat} (hmtx : ¬ InMtxSquare (sideOf v) a)
    (hrsv : ¬ InRsvSquare (sideOf v) a) :
    (s.symbolInto v e mo data).mem.read a = ((s.packInto v e mo data).augmentInto v e).mem.read a := by
  unfold State.symbolInto
  generalize (s.packInto v e mo data).augmentInto v e = u
  have hversion := u.version_buildBaseInto hv
  have hsquare : ¬ InMtxSquare (u.buildBaseInto v).side a := by rwa [State.side_eq, hversion]
  rw [State.read_placeInto (hversion.trans_le hv.2) (not_isDataCell_of_not_inMtxSquare hsquare),
    u.read_buildBaseInto hv hmtx hrsv]

theorem State.read_symbolInto_rsv {r c : Nat} (hr : r < sideOf v) (hc : c < sideOf v) :
    (s.symbolInto v e mo data).mem.read (cellAddr rsvBase r c) = some (if (baseCell v r c).isSome then 1 else 0) := by
  unfold State.symbolInto
  generalize (s.packInto v e mo data).augmentInto v e = u
  have h40 : (u.buildBaseInto v).version ≤ 40 := (u.version_buildBaseInto hv).trans_le hv.2
  have hsquare := not_inMtxSquare_rsv ((u.buildBaseInto v).side_le h40) r c
  rw [State.read_placeInto h40 (not_isDataCell_of_not_inMtxSquare hsquare), u.read_buildBaseInto_rsv hv hr hc]

end

/-! ## The mask selection -/

theorem State.selectMask_phase (s : State) (e : Level) (c : Choice Nat) : (s.selectMask e c).phase = .final := by
  cases c <;> rfl

/-- An automatic selection reports the least of the eight scores and a mask that has it (R143). -/
theorem State.autoMask_reports (s : State) (e : Level) :
    (s.autoMask e).res0.toNat < 8 ∧
    (s.autoMask e).res1 = (s.autoMask e).sb.toList.getD (s.autoMask e).res0.toNat 0 ∧
    ∀ m, m < 8 → (s.autoMask e).res1.toNat ≤ ((s.autoMask e).sb.toList.getD m 0).toNat := by
  obtain ⟨scores, hscores⟩ : ∃ scores, trialScores s.side e s.reserved s.matrix = scores := ⟨_, rfl⟩
  obtain ⟨best, hbest⟩ : ∃ best, bestMask scores = best := ⟨_, rfl⟩
  obtain ⟨hlt, hleast⟩ := hbest ▸ isFirstLeast_bestMask scores
  have hres0 : (BitVec.ofNat 32 best).toNat = best := by
    rw [BitVec.toNat_ofNat]
    omega
  simp only [State.autoMask_eq hscores hbest, hres0]
  exact ⟨hlt, trivial, fun m hm => (hleast m hm).1⟩

/-- A selection leaves no written cell unwritten. -/
theorem State.isSome_read_selectMask {s : State} (hver : s.version ≤ 40) (e : Level) (c : Choice Nat) {r k : Nat}
    (hr : r < s.side) (hk : k < s.side) (h : (s.mem.read (cellAddr mtxBase r k)).isSome = true) :
    ((s.selectMask e c).mem.read (cellAddr mtxBase r k)).isSome = true := by
  have hcommit : ∀ m, (((s.maskInto m).formatInto e m).mem.read (cellAddr mtxBase r k)).isSome = true := fun m => by
    rw [State.read_formatInto_cell (s := s.maskInto m) hver e m hr hk, State.read_maskInto_cell hver m hr hk,
      Option.isSome_or, Bool.or_eq_true]
    right
    split
    · rwa [Option.isSome_map]
    · exact h
  cases c with
  | fixed m => exact hcommit m
  | auto => exact hcommit (bestMask (trialScores s.side e s.reserved s.matrix))

/-! ## What the pipeline leaves -/

/-- What the pipeline changes: the tables, the version and the phase to known values (R151). -/
theorem State.generateInto_final (s : State) (v : Nat) (e : Level) (mo : Mode) (data : List Byte) (c : Choice Nat) :
    ∃ m b x y n, s.generateInto v e mo data c = { s with
      tables := some s.gf, mem := m, mver := BitVec.ofNat 6 v, phase := .final, sb := b, res0 := x, res1 := y
      draws := n } := by
  obtain ⟨m, n, hsymbol⟩ := s.symbolInto_frame v e mo data
  have hphase := (s.symbolInto v e mo data).selectMask_phase e c
  obtain ⟨m', p, b, x, y, n', hselect, -⟩ := (s.symbolInto v e mo data).selectMask_frame e c
  rw [hselect] at hphase
  obtain rfl : p = .final := hphase
  rw [State.generateInto_eq, hselect, hsymbol]
  exact ⟨_, _, _, _, _, rfl⟩

/-- A forced mask is reported without a score, and the scoreboard stays (R144). -/
theorem State.generateInto_forced (s : State) (v : Nat) (e : Level) (mo : Mode) (data : List Byte) (m : Nat) :
    (s.generateInto v e mo data (.fixed m)).res0 = BitVec.ofNat 32 m ∧
    (s.generateInto v e mo data (.fixed m)).res1 = 0xFFFFFFFF ∧
    (s.generateInto v e mo data (.fixed m)).sb = s.sb := by
  obtain ⟨mem, n, hsymbol⟩ := s.symbolInto_frame v e mo data
  rw [State.generateInto_eq, hsymbol]
  exact ⟨rfl, rfl, rfl⟩

section

variable (s : State) {v : Nat} (hv : IsVersion v) (e : Level) (mo : Mode) (data : List Byte) (c : Choice Nat)

include hv

/-- The mask selection changes cells of MTX only (R148). -/
theorem State.read_generateInto_outside {a : Nat} (hmtx : ¬ InMtxSquare (sideOf v) a) :
    (s.generateInto v e mo data c).mem.read a = (s.symbolInto v e mo data).mem.read a := by
  have hversion := s.version_symbolInto hv e mo data
  have hsquare : ¬ InMtxSquare (s.symbolInto v e mo data).side a := by rwa [State.side_eq, hversion]
  rw [State.generateInto_eq]
  exact State.read_selectMask (hversion.trans_le hv.2) e c (not_isDataCell_of_not_inMtxSquare hsquare)
    fun h => hsquare h.1

theorem State.read_generateInto_rsv {r k : Nat} (hr : r < sideOf v) (hk : k < sideOf v) :
    (s.generateInto v e mo data c).mem.read (cellAddr rsvBase r k) =
      some (if (baseCell v r k).isSome then 1 else 0) := by
  rw [s.read_generateInto_outside hv e mo data c (not_inMtxSquare_rsv (sideOf_le_maxSide hv) r k),
    s.read_symbolInto_rsv hv e mo data hr hk]

theorem State.isSome_read_generateInto {r k : Nat} (hr : r < sideOf v) (hk : k < sideOf v) :
    ((s.generateInto v e mo data c).mem.read (cellAddr mtxBase r k)).isSome = true := by
  have hversion := s.version_symbolInto hv e mo data
  have hside : (s.symbolInto v e mo data).side = sideOf v := congrArg sideOf hversion
  rw [State.generateInto_eq]
  exact State.isSome_read_selectMask (hversion.trans_le hv.2) e c (hside ▸ hr) (hside ▸ hk)
    (State.isSome_read_placeInto_buildBaseInto _ hv hr hk)

/-- The codewords of the data stay in CWB (R151). -/
theorem State.storedBit_generateInto {k : Nat} (hk : k < 8 * dataCodewords v e) :
    storedBit (s.generateInto v e mo data c).mem cwbBase k =
      some (codewordBit (serialize v mo data) (dataCodewords v e) k) := by
  obtain ⟨-, hsize⟩ := codewords_le v hv e
  have hread : (s.generateInto v e mo data c).mem.read (cwbBase + k / 8) =
      (s.packInto v e mo data).mem.read (cwbBase + k / 8) := by
    have hlow : cwbBase + k / 8 < ilbBase := by unfold cwbBase ilbBase; omega
    have hmtx : ¬ InMtxSquare (sideOf v) (cwbBase + k / 8) := not_inMtxSquare_of_lt (hlow.trans (by decide))
    rw [s.read_generateInto_outside hv e mo data c hmtx, s.read_symbolInto_outside hv e mo data hmtx
      (not_inRsvSquare_of_lt (hlow.trans (by decide))), State.read_augmentInto _ hv e (by omega)]
  rw [storedBit, hread, ← bytesBit_finishStream hk]
  exact storedBit_writeBytes s.mem cwbBase (bs := packedCodewords v e mo data) (by rwa [length_packedCodewords])

end

/-! ## GENERATE -/

/-- Settles O58: the command ends in the pipeline on the folded input, whose data is valid without folding. -/
theorem generateBuildsTheSymbol : Obligations.GenerateBuildsTheSymbol := by
  intro s ecc ver mode mask e v mo htables h n data
  obtain ⟨-, -, -, hvalid, hv, -, -, hmask⟩ := id h
  obtain ⟨c, hc⟩ := exists_maskChoice hmask
  have hexec := exec_generate_eq h hc
  obtain ⟨g, hg⟩ : ∃ g, (s.drew s.len.toNat).generateInto v e mo data c = g := ⟨_, rfl⟩
  rw [hg] at hexec
  refine ⟨_, hexec, ?_, fun h7 => ?_, fun h15 => ?_, fun k hk => ?_, fun r k hr hk => ⟨?_, ?_⟩,
    fun a hcwb hilb hmtx hrsv => ?_⟩
  · obtain ⟨m, b, x, y, d, hfinal⟩ := (s.drew s.len.toNat).generateInto_final v e mo data c
    rw [← hg, hfinal, htables.gf_eq (s := s.drew s.len.toNat)]
    rfl
  · obtain rfl := Option.some.inj (hc.symm.trans (maskChoice_forced h7))
    obtain ⟨hres0, hres1, hsb⟩ := hg ▸ (s.drew s.len.toNat).generateInto_forced v e mo data mask.toNat
    refine ⟨(congrArg BitVec.toNat hres0).trans ?_, hres1, hsb⟩
    rw [BitVec.toNat_ofNat]
    omega
  · obtain rfl := Option.some.inj (hc.symm.trans (maskChoice_automatic h15))
    have hauto := ((s.drew s.len.toNat).symbolInto v e mo data).autoMask_reports e
    rw [State.generateInto_eq, State.selectMask] at hg
    rw [hg] at hauto
    exact hauto
  · have hstored := (s.drew s.len.toNat).storedBit_generateInto hv e mo data c hk
    rw [hg, serialize_eq_streamOf v (validFor_foldedInput hvalid)] at hstored
    exact hstored
  · exact hg ▸ (s.drew s.len.toNat).isSome_read_generateInto hv e mo data c hr hk
  · exact hg ▸ (s.drew s.len.toNat).read_generateInto_rsv hv e mo data c hr hk
  · exact hg ▸ (s.drew s.len.toNat).read_generateInto hv mo data c (by omega) (by omega) hmtx hrsv

end Sys2Proof.Machine
end

section
/-! SUPPORT. The pipeline of GENERATE commutes with a store in IBUF: it neither reads nor writes that buffer
(46_generate.md R151, R152). -/

namespace Sys2Proof.Machine

open Sys2Proof.Claims

/-! ## Ranges one after the other -/

theorem Memory.filter_entries_of_forall {a : Nat} {vs : List (Option Byte)} {q : Nat → Bool}
    (h : ∀ x, a ≤ x → x < a + vs.length → q x = true) :
    (Memory.entries a vs).filter (fun e => q e.1) = Memory.entries a vs :=
  List.filter_eq_self.mpr fun e he => h e.1 (Memory.entries_range a vs e he).1 (Memory.entries_range a vs e he).2

theorem Memory.filter_entries_of_forall_not {a : Nat} {vs : List (Option Byte)} {q : Nat → Bool}
    (h : ∀ x, a ≤ x → x < a + vs.length → q x = false) : (Memory.entries a vs).filter (fun e => q e.1) = [] :=
  List.filter_eq_nil_iff.mpr fun e he => by
    have := h e.1 (Memory.entries_range a vs e he).1 (Memory.entries_range a vs e he).2
    simp [this]

/-- Ranges one after the other may be set in either order, in any memory. -/
theorem Memory.setRange_comm (m : Memory) {a b : Nat} {vs ws : List (Option Byte)} (h : a + vs.length ≤ b) :
    (m.setRange a vs).setRange b ws = (m.setRange b ws).setRange a vs := by
  have hlow := Memory.filter_entries_of_forall (a := a) (vs := vs) (q := fun x => decide (x < b)) fun x _ _ => by
    simp; omega
  have hlow' := Memory.filter_entries_of_forall_not (a := a) (vs := vs) (q := fun x => decide (b + ws.length ≤ x))
    fun x _ _ => by simp; omega
  have hhigh := Memory.filter_entries_of_forall (a := b) (vs := ws) (q := fun x => decide (a + vs.length ≤ x))
    fun x _ _ => by simp; omega
  have hhigh' := Memory.filter_entries_of_forall_not (a := b) (vs := ws) (q := fun x => decide (x < a))
    fun x _ _ => by simp; omega
  have hnone : m.filter (fun e => decide (b + ws.length ≤ e.1) && decide (e.1 < a)) = [] :=
    List.filter_eq_nil_iff.mpr fun e _ => by simp; omega
  have hnone' : m.filter (fun e => decide (e.1 < a) && decide (b + ws.length ≤ e.1)) = [] :=
    List.filter_eq_nil_iff.mpr fun e _ => by simp; omega
  simp only [Memory.setRange, List.filter_append, List.filter_filter, hlow, hlow', hhigh, hhigh', hnone, hnone',
    List.append_nil, List.nil_append, List.append_assoc]
  simp only [Bool.and_comm]

/-! ## A store in IBUF -/

theorem cwbBase_le_ilbBase : cwbBase ≤ ilbBase := by decide
theorem cwbBase_le_mtxBase : cwbBase ≤ mtxBase := by decide
theorem cwbBase_le_rsvBase : cwbBase ≤ rsvBase := by decide

theorem base_le_cellAddr (base r c : Nat) : base ≤ cellAddr base r c := by
  unfold cellAddr
  omega

/-- `s` with some bytes stored from the start of IBUF on. -/
def State.withInput (s : State) (bs : List Byte) : State := { s with mem := s.mem.writeBytes ibufBase bs }

section

variable {bs : List Byte} (hbs : bs.length ≤ ibufSize)

include hbs

theorem Memory.setRange_writeBytes_input (m : Memory) {a : Nat} (ha : cwbBase ≤ a) (vs : List (Option Byte)) :
    (m.writeBytes ibufBase bs).setRange a vs = (m.setRange a vs).writeBytes ibufBase bs :=
  m.setRange_comm (by
    rw [List.length_map]
    unfold ibufSize at hbs
    unfold cwbBase at ha
    unfold ibufBase
    omega)

theorem Memory.slice_writeBytes_input (m : Memory) {a : Nat} (ha : cwbBase ≤ a) (n : Nat) :
    (m.writeBytes ibufBase bs).slice a n = m.slice a n := by
  rw [Memory.slice_eq, Memory.slice_eq]
  refine List.map_congr_left fun x hx => m.read_writeBytes_outside ?_
  rw [List.mem_range'_1] at hx
  unfold ibufSize at hbs
  unfold cwbBase at ha
  unfold ibufBase
  omega

theorem Memory.mapSquare_writeBytes_input (m : Memory) {base : Nat} (hbase : cwbBase ≤ base) (n : Nat)
    (f : Nat → Nat → Option Byte → Option Byte) :
    (m.writeBytes ibufBase bs).mapSquare base n f = (m.mapSquare base n f).writeBytes ibufBase bs := by
  refine List.foldl_hom (fun m : Memory => m.writeBytes ibufBase bs) fun m r => ?_
  have hrow := hbase.trans (base_le_cellAddr base r 0)
  rw [Memory.mapRow, m.slice_writeBytes_input hbs hrow, m.setRange_writeBytes_input hbs hrow]
  rfl

/-! ## The operations of the pipeline -/

variable (s : State)

theorem State.readBytes_withInput {a : Nat} (ha : cwbBase ≤ a) (n : Nat) :
    (s.withInput bs).readBytes a n = s.readBytes a n := by
  simp only [State.readBytes, State.withInput, s.mem.slice_writeBytes_input hbs ha]

theorem State.reserved_withInput : (s.withInput bs).reserved = s.reserved := by
  refine List.map_congr_left fun r _ => ?_
  have hrow := cwbBase_le_rsvBase.trans (base_le_cellAddr _ r 0)
  simp only [State.withInput, s.mem.slice_writeBytes_input hbs hrow]
  rfl

theorem State.matrix_withInput : (s.withInput bs).matrix = s.matrix := by
  refine List.map_congr_left fun r _ => ?_
  have hrow := cwbBase_le_mtxBase.trans (base_le_cellAddr _ r 0)
  simp only [State.matrixRow, State.withInput, s.mem.slice_writeBytes_input hbs hrow]
  rfl

theorem State.packInto_withInput (v : Nat) (e : Level) (mo : Mode) (data : List Byte) :
    (s.withInput bs).packInto v e mo data = (s.packInto v e mo data).withInput bs := by
  have hmem := s.mem.setRange_writeBytes_input hbs le_rfl ((packedCodewords v e mo data).map some)
  exact congrArg (fun m => { s with mem := m }) hmem

theorem State.augmentInto_withInput (v : Nat) (e : Level) :
    (s.withInput bs).augmentInto v e = (s.augmentInto v e).withInput bs := by
  have hread := s.readBytes_withInput hbs le_rfl (dataCodewords v e)
  simp only [State.augmentInto, hread]
  exact congrArg (fun m => { s.needTables.drew (dataCodewords v e) with mem := m })
    (s.mem.setRange_writeBytes_input hbs cwbBase_le_ilbBase _)

theorem State.buildBaseInto_withInput (v : Nat) :
    (s.withInput bs).buildBaseInto v = (s.buildBaseInto v).withInput bs := by
  simp only [State.buildBaseInto, State.withInput, s.mem.mapSquare_writeBytes_input hbs cwbBase_le_mtxBase,
    Memory.mapSquare_writeBytes_input hbs _ cwbBase_le_rsvBase]

/-- The bytes PLACE puts in cells come from ILB and RSV. -/
theorem State.placeInto_withInput : (s.withInput bs).placeInto = s.placeInto.withInput bs := by
  have hplaced : (s.withInput bs).placedCells = s.placedCells := by
    rw [State.placedCells, s.reserved_withInput hbs, s.readBytes_withInput hbs cwbBase_le_ilbBase]
    rfl
  rw [State.placeInto_eq, hplaced, State.placeInto_eq]
  exact congrArg (fun m => { s.drew (totalCodewords s.mver.toNat) with mem := m, phase := .placed })
    (s.mem.mapSquare_writeBytes_input hbs cwbBase_le_mtxBase _ _)

theorem State.maskInto_withInput (m : Nat) : (s.withInput bs).maskInto m = (s.maskInto m).withInput bs := by
  simp only [State.maskInto, s.reserved_withInput hbs]
  exact congrArg (fun m => { s with mem := m }) (s.mem.mapSquare_writeBytes_input hbs cwbBase_le_mtxBase _ _)

theorem State.formatInto_withInput (e : Level) (m : Nat) :
    (s.withInput bs).formatInto e m = (s.formatInto e m).withInput bs :=
  congrArg (fun m => { s with mem := m }) (s.mem.mapSquare_writeBytes_input hbs cwbBase_le_mtxBase _ _)

theorem State.selectMask_withInput (e : Level) (c : Choice Nat) :
    (s.withInput bs).selectMask e c = (s.selectMask e c).withInput bs := by
  have hcommit : ∀ m, ((s.withInput bs).maskInto m).formatInto e m = ((s.maskInto m).formatInto e m).withInput bs :=
    fun m => by rw [s.maskInto_withInput hbs, State.formatInto_withInput hbs]
  cases c with
  | fixed m =>
    simp only [State.selectMask, State.forceMask, hcommit]
    rfl
  | auto =>
    obtain ⟨scores, hscores⟩ : ∃ scores, trialScores s.side e s.reserved s.matrix = scores := ⟨_, rfl⟩
    have hscores' : trialScores (s.withInput bs).side e (s.withInput bs).reserved (s.withInput bs).matrix = scores := by
      rw [s.reserved_withInput hbs, s.matrix_withInput hbs]
      exact hscores
    rw [State.selectMask, State.selectMask, State.autoMask_eq hscores rfl, State.autoMask_eq hscores' rfl, hcommit]
    rfl

/-- The pipeline reads nothing of IBUF: its data is already taken (R151). -/
theorem State.generateInto_withInput (v : Nat) (e : Level) (mo : Mode) (data : List Byte) (c : Choice Nat) :
    (s.withInput bs).generateInto v e mo data c = (s.generateInto v e mo data c).withInput bs := by
  simp only [State.generateInto_eq, State.symbolInto, State.packInto_withInput hbs, State.augmentInto_withInput hbs,
    State.buildBaseInto_withInput hbs, State.placeInto_withInput hbs, State.selectMask_withInput hbs]

end

theorem State.inputBytes_withInput (s : State) {bs : List Byte} (h : bs.length = s.len.toNat) :
    (s.withInput bs).inputBytes = bs := by
  have hread := (s.withInput bs).readBytes_of_written ibufBase bs fun i hi => s.mem.read_writeBytes_at ibufBase hi
  rwa [h] at hread

/-- The pipeline leaves IBUF alone (R151). -/
theorem State.read_generateInto_input (s : State) {v : Nat} (hv : IsVersion v) (e : Level) (mo : Mode)
    (data : List Byte) (c : Choice Nat) {a : Nat} (ha : a < cwbBase) :
    (s.generateInto v e mo data c).mem.read a = s.mem.read a := by
  have hilb := cwbBase_le_ilbBase
  exact s.read_generateInto (e := e) hv mo data c (by omega) (by omega)
    (not_inMtxSquare_of_lt (ha.trans (by decide))) (not_inRsvSquare_of_lt (ha.trans (by decide)))

end Sys2Proof.Machine
end

section
/-! SUPPORT. GENERATE as the sequence of PACK, AUGMENT, BUILDBASE, PLACE and SELECT (46_generate.md R152). -/

namespace Sys2Proof.Machine

open Sys2Proof.Claims

/-! ## The registers a command reports in -/

/-- `s` with the result registers and the completion fields of `h`. -/
def State.reporting (s h : State) : State :=
  { s with
    res0 := h.res0, res1 := h.res1, res2 := h.res2, res3 := h.res3, res4 := h.res4
    inflight := h.inflight, done := h.done, err := h.err }

/-- An outcome that differs from `s` in those fields only. -/
theorem exists_reporting {o : Host.Outcome State Fault Refusal} {s t : State} (ho : o = .next t)
    (ht : t = s.reporting t) : ∃ h, o = .next (s.reporting h) := ⟨t, ho.trans (congrArg _ ht)⟩

/-- A mask selection reads no result register and no completion field. -/
theorem State.selectMask_reporting (s h : State) (e : Level) (c : Choice Nat) :
    (s.reporting h).selectMask e c = { s.selectMask e c with
      res2 := h.res2, res3 := h.res3, res4 := h.res4, inflight := h.inflight, done := h.done, err := h.err } := by
  cases c with
  | fixed m => rfl
  | auto =>
    obtain ⟨scores, hscores⟩ : ∃ scores, trialScores s.side e s.reserved s.matrix = scores := ⟨_, rfl⟩
    rw [State.selectMask, State.selectMask, State.autoMask_eq hscores rfl,
      State.autoMask_eq (s := s.reporting h) hscores rfl]
    rfl

section

variable {ecc : BitVec 3} {ver : BitVec 6} {e : Level}

theorem exec_augment_reporting (s h : State) (hecc : ecc.toNat = levelCode e) (hver : IsVersion ver.toNat) :
    ∃ h', exec (.augment ecc ver) (s.reporting h) = .next ((s.augmentInto ver.toNat e).reporting h') := by
  simp only [exec, execAugment, (levelOf_eq_some_iff ecc e).mpr hecc, versionOf_eq_toNat hver]
  exact exists_reporting rfl rfl

theorem exec_buildbase_reporting (s h : State) (hver : IsVersion ver.toNat) :
    ∃ h', exec (.buildbase ver) (s.reporting h) = .next ((s.buildBaseInto ver.toNat).reporting h') :=
  exists_reporting (exec_buildbase_eq (s.reporting h) hver) rfl

theorem exec_place_reporting (s h : State) (hbase : s.phase ≠ .empty) :
    ∃ h', exec .place (s.reporting h) = .next (s.placeInto.reporting h') :=
  exists_reporting (exec_place_eq (s := s.reporting h) hbase) rfl

theorem exec_select_reporting (s h : State) {mask : BitVec 4} {c : Choice Nat} (hplaced : s.phase = .placed)
    (hecc : ecc.toNat = levelCode e) (hc : maskChoice mask = some c) :
    exec (.select ecc mask) (s.reporting h) =
      .next { s.selectMask e c with res2 := h.res2, res3 := h.res3, res4 := h.res4 }.finish := by
  rw [exec_select_eq (s := s.reporting h) hplaced hecc hc, State.selectMask_reporting]
  rfl

end

/-! ## GENERATE and the sequence -/

/-- PACK, AUGMENT, BUILDBASE, PLACE and SELECT run one after the other from `s` leave `g`, completed without error, but
for the result registers that SELECT does not write (R152). -/
def SequenceLeaves (ecc : BitVec 3) (ver : BitVec 6) (mode mask : BitVec 4) (s g : State) : Prop :=
  ∃ t1 t2 t3 t4 x y z, exec (.pack ecc ver mode) s = .next t1 ∧ exec (.augment ecc ver) t1 = .next t2 ∧
    exec (.buildbase ver) t2 = .next t3 ∧ exec .place t3 = .next t4 ∧
    exec (.select ecc mask) t4 = .next { g with res2 := x, res3 := y, res4 := z }.finish

/-- The five commands leave what the pipeline of GENERATE leaves (R152). -/
theorem sequenceLeaves_generateInto {s : State} {ecc : BitVec 3} {ver : BitVec 6} {mode mask : BitVec 4} {e : Level}
    {mo : Mode} {c : Choice Nat} (hecc : ecc.toNat = levelCode e) (hmode : mode.toNat = modeCode mo)
    (hver : IsVersion ver.toNat) (hlen : s.len.toNat ≤ ibufSize) (hvalid : validFor mo s.inputBytes false = true)
    (hfits : s.len.toNat ≤ maxDataLength ver.toNat mo e) (hc : maskChoice mask = some c) :
    SequenceLeaves ecc ver mode mask s ((s.drew s.len.toNat).generateInto ver.toNat e mo s.inputBytes c) := by
  obtain ⟨p, hp⟩ : ∃ p, (s.drew s.len.toNat).packInto ver.toNat e mo s.inputBytes = p := ⟨_, rfl⟩
  obtain ⟨h1, hpack⟩ := exists_reporting (s := p) (exec_pack_eq s ((levelOf_eq_some_iff ecc e).mpr hecc)
    ((modeOf_eq_some_iff mode mo).mpr hmode) hver hlen hvalid hfits) (hp ▸ rfl)
  obtain ⟨h2, haugment⟩ := exec_augment_reporting p h1 hecc hver
  obtain ⟨h3, hbuildbase⟩ := exec_buildbase_reporting (p.augmentInto ver.toNat e) h2 hver
  obtain ⟨h4, hplace⟩ := exec_place_reporting ((p.augmentInto ver.toNat e).buildBaseInto ver.toNat) h3
    (by simp [State.buildBaseInto])
  have hselect := exec_select_reporting ((p.augmentInto ver.toNat e).buildBaseInto ver.toNat).placeInto h4 rfl hecc hc
  rw [State.generateInto_eq, State.symbolInto, hp]
  exact ⟨_, _, _, _, _, _, _, hpack, haugment, hbuildbase, hplace, hselect⟩

/-- From the folded input they leave what GENERATE leaves, and the folded input in IBUF (R152). -/
theorem sequenceLeaves_folded {s : State} {ecc : BitVec 3} {ver : BitVec 6} {mode mask : BitVec 4} {e : Level} {v : Nat}
    {mo : Mode} {c : Choice Nat} (h : GenerateAccepts s ecc ver mode mask e v)
    (hmo : workingMode mode s.inputBytes = mo) (hc : maskChoice mask = some c) :
    SequenceLeaves ecc (BitVec.ofNat 6 v) (BitVec.ofNat 4 (modeCode mo)) mask (s.withInput (foldedInput s mo))
      (((s.drew s.len.toNat).generateInto v e mo (foldedInput s mo) c).withInput (foldedInput s mo)) := by
  obtain ⟨hecc, -, hlen, hvalid, hv, hfits, -, -⟩ := h
  rw [hmo] at hvalid hfits
  have hstrict := validFor_foldedInput hvalid
  have hver : (BitVec.ofNat 6 v).toNat = v := by
    unfold IsVersion at hv
    rw [BitVec.toNat_ofNat]
    omega
  have hmode : (BitVec.ofNat 4 (modeCode mo)).toNat = modeCode mo := by cases mo <;> rfl
  have hdata : (foldedInput s mo).length ≤ ibufSize := by rwa [length_foldedInput]
  have hinput := s.inputBytes_withInput (length_foldedInput s mo)
  rw [← State.generateInto_withInput hdata]
  generalize foldedInput s mo = data at hinput hstrict ⊢
  have hsequence := sequenceLeaves_generateInto (s := s.withInput data) hecc hmode (hver.symm ▸ hv) hlen
    (hinput.symm ▸ hstrict) (hver.symm ▸ hfits) hc
  rwa [hinput, hver] at hsequence

/-- Settles O59: the five commands and GENERATE end in the same pipeline, which neither reads nor writes IBUF once the
data is taken. -/
theorem generateIsTheSequenceOfCommands : Obligations.GenerateIsTheSequenceOfCommands := by
  refine ⟨fun s ecc ver mode mask e v _ h => ?_,
    fun s ecc ver mode mask e mo _ hecc hmode hver hlen hvalid hfits hmask => ?_⟩
  · obtain ⟨-, -, hlen, -, hv, -, -, hmask⟩ := id h
    obtain ⟨c, hc⟩ := exists_maskChoice hmask
    intro mo folded ver'
    have hkept := fun a => (s.drew s.len.toNat).read_generateInto_input (a := a) hv e mo (foldedInput s mo) c
    have hgenerate := exec_generate_eq h hc
    have hsequence := sequenceLeaves_folded h rfl hc
    obtain ⟨g, hg⟩ : ∃ g, (s.drew s.len.toNat).generateInto v e mo (foldedInput s mo) c = g := ⟨_, rfl⟩
    rw [hg] at hkept hgenerate hsequence
    obtain ⟨t1, t2, t3, t4, x, y, z, hpack, haugment, hbuildbase, hplace, hselect⟩ := hsequence
    refine ⟨t1, t2, t3, t4, _, _, hpack, haugment, hbuildbase, hplace, hselect, hgenerate, fun a => ?_, rfl, rfl, rfl,
      rfl, rfl, rfl, rfl, rfl⟩
    split
    · next ha => exact hkept a (by unfold ibufBase at ha; unfold cwbBase; omega)
    · next ha => exact (g.mem.read_writeBytes_outside (by rwa [length_foldedInput])).symm
  · obtain ⟨c, hc⟩ := exists_maskChoice hmask
    have hgenerate := exec_generate_eq (generateAccepts_of_named hecc hmode hver hlen hvalid hfits hmask) hc
    have hsequence := sequenceLeaves_generateInto hecc hmode hver hlen hvalid hfits hc
    rw [workingMode_of_modeCode hmode, foldedInput_of_strict hvalid] at hgenerate
    obtain ⟨g, hg⟩ : ∃ g, (s.drew s.len.toNat).generateInto ver.toNat e mo s.inputBytes c = g := ⟨_, rfl⟩
    rw [hg] at hgenerate hsequence
    obtain ⟨t1, t2, t3, t4, x, y, z, hpack, haugment, hbuildbase, hplace, hselect⟩ := hsequence
    exact ⟨t1, t2, t3, t4, _, _, hpack, haugment, hbuildbase, hplace, hselect, hgenerate, rfl, rfl, rfl, rfl, rfl,
      rfl, rfl, rfl, rfl⟩

end Sys2Proof.Machine
end

section
/-! SUPPORT. What every command leaves alone, what it leaves when it completes (60_exceptions.md R160, R161), and the
writes of CMD, STATUS and CTRL (R159, R164, R166). -/

namespace Sys2Proof.Machine

open Sys2Proof.Claims

/-! ## The completion of a command -/

/-- `s` with everything a command may write beside its completion as it is in `u`: RES0 to RES4, SB, MINFO, the
tables, memory, and the model's draw counter (R160). -/
def State.withWritten (s u : State) : State :=
  { s with
    res0 := u.res0, res1 := u.res1, res2 := u.res2, res3 := u.res3, res4 := u.res4, sb := u.sb
    mver := u.mver, phase := u.phase, tables := u.tables, mem := u.mem, draws := u.draws }

/-- The effect of a command stays within what a command may write. -/
theorem State.Effect.eq_withWritten {s u : State} {i : Instr} (he : s.Effect i u) : u = s.withWritten u := by
  cases he with
  | select e c =>
    obtain ⟨m, p, b, x, y, n, hselect, -⟩ := s.selectMask_frame e c
    rw [hselect]
    rfl
  | generate v e mo data c =>
    obtain ⟨g, m, mv, p, b, x, y, n, hgenerate, -⟩ := (s.drew s.len.toNat).generateInto_frame v e mo data c
    rw [hgenerate]
    rfl
  | _ => rfl

/-- A command has written no more than that when it completes, with or without error (R160, R161). -/
theorem exec_eq_complete {i : Instr} {s t : State} (h : exec i s = .next t) :
    t = (s.withWritten t).complete t.err := by
  obtain ⟨n, e, rfl⟩ | ⟨u, hu, rfl⟩ := exec_cases h
  · rfl
  · exact congrArg State.finish hu.eq_withWritten

/-- Every command answers a next state (R160, R172). -/
theorem exec_goes (i : Instr) (s : State) : Goes (exec i s) := by
  have hends := exec_ends i s
  generalize exec i s = o at hends ⊢
  cases hends with
  | fails n e => exact ⟨_, rfl⟩
  | succeeds hu => exact ⟨_, rfl⟩

/-- Settles O27: a command answers a next state, which differs from the old one in what a command may write and in
its completion only. -/
theorem everyCommandCompletes : Obligations.EveryCommandCompletes := by
  intro i s
  obtain ⟨t, ht⟩ := exec_goes i s
  refine ⟨t, ht, ?_⟩
  rw [exec_eq_complete ht]
  exact ⟨rfl, rfl, rfl, rfl, rfl, rfl, rfl, rfl, rfl, rfl, rfl, rfl, rfl⟩

/-- Settles O28: a command that has had its effect completes with code 0, and one that fails has only drawn free
values. -/
theorem aFailingCommandChangesNothing : Obligations.AFailingCommandChangesNothing := by
  intro i s t h herr
  obtain ⟨n, e, rfl⟩ | ⟨u, -, rfl⟩ := exec_cases h
  · rfl
  · exact absurd rfl herr

/-! ## The writes of CMD, STATUS and CTRL -/

theorem State.hostWrite_cmd_idle {s : State} (h : Idle s) (w : Word) :
    s.hostWrite 0x004 32 w = { s.accept w with reply := .done } := by
  obtain ⟨hbusy, hreset⟩ := h
  rw [State.hostWrite_csr hreset (by decide) (by decide)]
  simp [State.writeCsr, hbusy]

theorem State.hostWrite_cmd_running {s : State} (h : Running s) (w : Word) :
    s.hostWrite 0x004 32 w = { s with reply := .done, ovr := true } := by
  obtain ⟨hbusy, hreset⟩ := h
  rw [State.hostWrite_csr hreset (by decide) (by decide)]
  simp [State.writeCsr, isOperandReg, hbusy]

theorem State.hostWrite_status {s : State} (h : s.inReset = false) (w : Word) :
    s.hostWrite 0x008 32 w = { s.writeStatus w with reply := .done } := by
  rw [State.hostWrite_csr h (by decide) (by decide)]
  simp [State.writeCsr, isOperandReg]

theorem State.hostWrite_ctrl {s : State} (h : s.inReset = false) (w : Word) :
    s.hostWrite 0x00C 32 w = { s.writeCtrl w with reply := .done } := by
  rw [State.hostWrite_csr h (by decide) (by decide)]
  simp [State.writeCsr, isOperandReg]

theorem step_host {s : State} {x : Access} {rest : List Turn} (h : s.turns = .host x :: rest) :
    step s = .next (({ s with turns := rest } : State).hostAccess x) := by
  simp [step, State.advance, h, State.takeTurn]

/-- Settles O7: the write of CMD by an idle machine is the acceptance of the word. -/
theorem acceptanceLatchesTheWord : Obligations.AcceptanceLatchesTheWord := by
  intro s w rest hidle hturns
  exact (step_host hturns).trans (congrArg _ (State.hostWrite_cmd_idle (s := { s with turns := rest }) hidle w))

/-- Settles O23: a command completes with DONE 1 and IE kept, and the three writes are those of their registers. -/
theorem irqFollowsEnableAndDone : Obligations.IrqFollowsEnableAndDone := by
  refine fun s => ⟨rfl, fun i t h => ?_, fun w hreset => ⟨?_, fun hclear => ?_⟩, fun w hidle => ?_⟩
  · rw [exec_eq_complete h]
    exact Bool.and_true _
  · rw [State.hostWrite_ctrl hreset]
    rfl
  · rw [State.hostWrite_status hreset]
    simp [State.irq, State.writeStatus, hclear]
  · rw [State.hostWrite_cmd_idle hidle]
    exact Bool.and_false _

/-! ## The fall of OVR -/

/-- A CSR write leaves OVR set, but for a write of STATUS with bit 8 set (R26, R164). -/
theorem State.writeCsr_ovr_or {s : State} (h : s.ovr = true) (a : Nat) (w : Word) :
    (s.writeCsr a w).ovr = true ∨ a = 0x008 ∧ w.getLsbD 8 = true := by
  unfold State.writeCsr
  split
  · exact .inl h
  split
  · split
    · exact .inl rfl
    · exact .inl h
  · cases hbit : w.getLsbD 8 with
    | false =>
      have hovr : (s.writeStatus w).ovr = (s.ovr && !w.getLsbD 8) := rfl
      exact .inl (by rw [hovr, h, hbit]; rfl)
    | true => exact .inr ⟨rfl, rfl⟩
  all_goals exact .inl h

/-- A host access leaves OVR set, but for a 32-bit write of STATUS with bit 8 set. -/
theorem State.hostAccess_ovr_or {s : State} (h : s.ovr = true) (x : Access) :
    (s.hostAccess x).ovr = true ∨ ∃ w, x = .write 0x008 32 w ∧ w.getLsbD 8 = true := by
  cases x with
  | read off width =>
    obtain ⟨r, n, b, hread⟩ := s.hostRead_frame off.toNat width
    rw [State.hostAccess, hread]
    exact .inl h
  | write off width w =>
    rw [State.hostAccess, State.hostWrite]
    split
    · exact .inl h
    split
    · exact .inl h
    next hlegal =>
    split
    · refine (State.writeCsr_ovr_or h off.toNat w).imp id fun ⟨hoff, hbit⟩ => ⟨w, ?_, hbit⟩
      obtain rfl : off = 0x008 := BitVec.eq_of_toNat_eq hoff
      rw [show width = 32 by simpa [accessLegal, regionOf] using hlegal]
    split
    · exact .inl h
    · exact .inl h

/-- The engine's turn leaves OVR alone (R160, R164). -/
theorem State.engineTurn_ovr {s t : State} (h : s.engineTurn = .next t) : t.ovr = s.ovr := by
  obtain ⟨-, heq⟩ | ⟨i, -, heq⟩ | heq := s.engineTurn_cases
  · cases heq.symm.trans h
    rfl
  · rw [exec_eq_complete (heq.symm.trans h)]
    rfl
  · cases heq.symm.trans h
    rfl

/-- A step leaves OVR set, but for a write of STATUS with bit 8 set and the release of reset. -/
theorem step_ovr_or {s t : State} (h : s.ovr = true) (ht : step s = .next t) :
    t.ovr = true ∨ (∃ w rest, s.turns = .host (.write 0x008 32 w) :: rest ∧ w.getLsbD 8 = true) ∨
      ∃ rest, s.turns = .resetRelease :: rest := by
  obtain ⟨-, hs⟩ | ⟨turn, rest, hturns, hs⟩ := step_cases s
  · exact .inl ((State.engineTurn_ovr (hs ▸ ht)).trans h)
  rw [hs] at ht
  cases turn with
  | engine => exact .inl ((State.engineTurn_ovr (s := { s with turns := rest }) ht).trans h)
  | host x =>
    cases ht
    obtain hkept | ⟨w, rfl, hbit⟩ := State.hostAccess_ovr_or (s := { s with turns := rest }) h x
    · exact .inl hkept
    · exact .inr (.inl ⟨w, rest, hturns, hbit⟩)
  | resetAssert =>
    cases ht
    exact .inl h
  | resetRelease => exact .inr (.inr ⟨rest, hturns⟩)

/-- Settles O9: a write of CMD while BUSY by its rule, and the fall of OVR by the turns that leave it set. -/
theorem commandWriteWhileBusyIsDropped : Obligations.CommandWriteWhileBusyIsDropped := by
  refine ⟨fun s w rest hrun hturns => ?_, fun s t hovr hstep hclear => ?_⟩
  · exact (step_host hturns).trans (congrArg _ (State.hostWrite_cmd_running (s := { s with turns := rest }) hrun w))
  · exact (step_ovr_or hovr hstep).resolve_left (by simp [hclear])

end Sys2Proof.Machine
end

section
/-! SUPPORT. The error a command reports (60_exceptions.md R158): its checks are the causes of the errors, in the order
of the rule. -/

namespace Sys2Proof.Machine

open Sys2Proof.Claims

/-! ## The first cause -/

/-- The first error in the order of R158 whose cause the command meets, else code 0. -/
def firstCause (i : Instr) (s : State) : ErrCode := (errorOrder.find? (causes i s)).getD .ok

/-- The order of R158 as a chain of checks; no command meets the cause of IllegalCommand. -/
theorem firstCause_eq (i : Instr) (s : State) :
    firstCause i s =
      if causes i s .sequenceError then .sequenceError
      else if causes i s .invalidMode then .invalidMode
      else if causes i s .operandRange then .operandRange
      else if causes i s .invalidDataFormat then .invalidDataFormat
      else if causes i s .invalidECCLevel then .invalidECCLevel
      else if causes i s .invalidVersion then .invalidVersion
      else if causes i s .dataTooLarge then .dataTooLarge
      else if causes i s .invalidMask then .invalidMask
      else .ok := by
  have hillegal : causes i s .illegalCommand = false := rfl
  simp only [firstCause, errorOrder, List.find?_cons, List.find?_nil, hillegal]
  split_ifs
  all_goals simp only [*]
  all_goals rfl

/-! ## The checks of a field -/

theorem versionOf_eq_none_iff_range (ver : BitVec 6) : versionOf ver = none ↔ ver.toNat = 0 ∨ 40 < ver.toNat := by
  rw [versionOf_eq_none_iff, IsVersion]
  omega

theorem modeChoice_eq_none_iff (mode : BitVec 4) :
    modeChoice mode = none ↔ mode.toNat ≠ 0 ∧ modeOf mode = none := by
  unfold modeChoice
  split
  · next hauto => simp [hauto]
  · next hfixed => simp [hfixed]

theorem maskChoice_eq_none_iff (mask : BitVec 4) :
    maskChoice mask = none ↔ maskOf mask = none ∧ mask.toNat ≠ 15 := by
  unfold maskChoice
  split
  · next hauto => simp [hauto]
  · next hforced => simp [hforced]

theorem workingLevel_of_levelOf {ecc : BitVec 3} {e : Level} (h : levelOf ecc = some e) : workingLevel ecc = e := by
  unfold workingLevel
  rw [(levelOf_eq_some_iff ecc e).mp h]
  cases e <;> rfl

/-- No version holds more data than version 40 (R96). -/
theorem maxDataLength_le_forty {v : Nat} (hv : IsVersion v) (mo : Mode) (e : Level) :
    maxDataLength v mo e ≤ maxDataLength 40 mo e := by
  have htable : ∀ v ∈ List.range' 1 40, ∀ mo ∈ [Mode.numeric, .alphanumeric, .octet],
      ∀ e ∈ [Level.m, .l, .h, .q], maxDataLength v mo e ≤ maxDataLength 40 mo e := by decide +kernel
  refine htable v ?_ mo (by cases mo <;> simp) e (by cases e <;> simp)
  rw [List.mem_range'_1]
  unfold IsVersion at hv
  omega

/-- The automatic choice fails exactly on data that version 40 does not hold (R97). -/
theorem autoVersion_eq_none_iff (len : Nat) (mo : Mode) (e : Level) :
    autoVersion len mo e = none ↔ maxDataLength 40 mo e < len := by
  simp only [autoVersion, List.find?_eq_none, List.mem_range'_1, decide_eq_true_eq, not_le]
  refine ⟨fun h => h 40 (by decide), fun h v hv => ?_⟩
  have hle := maxDataLength_le_forty (v := v) (by unfold IsVersion; omega) mo e
  omega

/-- The version of GENERATE is out of range, or the data fits no version or not the named one, or there is a version
to work in (R151). -/
theorem resolveVersion_cases (ver : BitVec 6) (len : Nat) (mo : Mode) (e : Level) :
    (40 < ver.toNat ∧ resolveVersion ver len mo e = .error .invalidVersion) ∨
    (¬ 40 < ver.toNat ∧ maxDataLength (if ver.toNat = 0 then 40 else ver.toNat) mo e < len ∧
      resolveVersion ver len mo e = .error .dataTooLarge) ∨
    (¬ 40 < ver.toNat ∧ ¬ maxDataLength (if ver.toNat = 0 then 40 else ver.toNat) mo e < len ∧
      ∃ v, resolveVersion ver len mo e = .ok v) := by
  by_cases hauto : ver.toNat = 0
  · have hchoice : versionChoice ver = some .auto := if_pos hauto
    simp only [resolveVersion, hchoice, if_pos hauto, ← autoVersion_eq_none_iff]
    cases autoVersion len mo e with
    | none => simp [hauto]
    | some v => simp [hauto]
  · by_cases h40 : 40 < ver.toNat
    · have hnone : versionOf ver = none := (versionOf_eq_none_iff_range ver).mpr (.inr h40)
      simp [resolveVersion, versionChoice, hauto, hnone, h40]
    · have hsome : versionOf ver = some ver.toNat := versionOf_eq_toNat (by unfold IsVersion; omega)
      simp only [resolveVersion, versionChoice, if_neg hauto, hsome, Option.map_some, h40]
      split
      · next hlarge => simp [hlarge]
      · next hfits => simp [hfits]

/-! ## The checks of a command -/

/-- The command completes, and with this code. -/
def CompletesWith (o : Host.Outcome State Fault Refusal) (c : ErrCode) : Prop := ∃ t, o = .next t ∧ t.err = c

@[simp] theorem completesWith_raise (s : State) (e c : ErrCode) : CompletesWith (.next (s.raise e)) c ↔ e = c := by
  simp [CompletesWith]

@[simp] theorem completesWith_finish (s : State) (c : ErrCode) : CompletesWith (.next s.finish) c ↔ .ok = c := by
  simp [CompletesWith]

theorem completesWith_ok (s : State) : CompletesWith (.next s.finish) .ok := ⟨_, rfl, rfl⟩

section

variable {s : State} {o : Host.Outcome State Fault Refusal} {e c : ErrCode} {p q : Prop} [Decidable p] [Decidable q]

theorem CompletesWith.of_not_cause (hq : ¬ q) (ho : CompletesWith o c) : CompletesWith o (if q then e else c) := by
  rwa [if_neg hq]

/-- A check that raises an error where its condition `p` holds, which is the cause `q` of the error. -/
theorem CompletesWith.of_check (hq : q ↔ p) (ho : ¬ p → CompletesWith o c) :
    CompletesWith (if p then .next (s.raise e) else o) (if q then e else c) := by
  simp only [hq]
  split
  · simp
  · next hp => exact ho hp

/-- A check that raises an error where its condition `p` fails. -/
theorem CompletesWith.of_guard (hq : q ↔ ¬ p) (ho : p → CompletesWith o c) :
    CompletesWith (if p then o else .next (s.raise e)) (if q then e else c) := by
  rw [← ite_not]
  exact .of_check hq fun hp => ho (not_not.mp hp)

end

/-- The checks of PACK, in their order (R115). -/
theorem execPack_completesWith (ecc : BitVec 3) (ver : BitVec 6) (mode : BitVec 4) (s : State) :
    CompletesWith (execPack ecc ver mode s)
      (if modeOf mode = none then .invalidMode
      else if 8192 < s.len.toNat then .operandRange
      else if !validFor (workingMode mode s.inputBytes) s.inputBytes false then .invalidDataFormat
      else if levelOf ecc = none then .invalidECCLevel
      else if versionOf ver = none then .invalidVersion
      else if maxDataLength ver.toNat (workingMode mode s.inputBytes) (workingLevel ecc) < s.len.toNat then .dataTooLarge
      else .ok) := by
  unfold execPack
  split
  · next hmode => simp [hmode]
  next mo hmode =>
  rw [workingMode_of_modeCode ((modeOf_eq_some_iff mode mo).mp hmode)]
  refine .of_not_cause (by simp [hmode]) ?_
  refine .of_check Iff.rfl fun _ => .of_check (by simp) fun _ => ?_
  split
  · next hecc => simp [hecc]
  next e hecc =>
  rw [workingLevel_of_levelOf hecc]
  refine .of_not_cause (by simp [hecc]) ?_
  split
  · next hver => simp [hver]
  next v hver =>
  obtain ⟨rfl, -⟩ := (versionOf_eq_some_iff ver v).mp hver
  refine .of_not_cause (by simp [hver]) ?_
  exact .of_check Iff.rfl fun _ => completesWith_ok _

/-- The checks of GENERATE, in their order (R151). -/
theorem execGenerate_completesWith (ecc : BitVec 3) (ver : BitVec 6) (mode mask : BitVec 4) (s : State) :
    CompletesWith (execGenerate ecc ver mode mask s)
      (if modeChoice mode = none then .invalidMode
      else if 8192 < s.len.toNat then .operandRange
      else if !validFor (workingMode mode s.inputBytes) s.inputBytes s.sampledFold then .invalidDataFormat
      else if levelOf ecc = none then .invalidECCLevel
      else if 40 < ver.toNat then .invalidVersion
      else if maxDataLength (if ver.toNat = 0 then 40 else ver.toNat) (workingMode mode s.inputBytes)
          (workingLevel ecc) < s.len.toNat then .dataTooLarge
      else if maskChoice mask = none then .invalidMask
      else .ok) := by
  unfold execGenerate
  split
  · next hmode => simp [hmode]
  next c hmode =>
  dsimp only
  rw [resolveMode_of_modeChoice hmode]
  generalize workingMode mode s.inputBytes = mo
  refine .of_not_cause (by simp [hmode]) ?_
  refine .of_check Iff.rfl fun _ => .of_check (by simp) fun _ => ?_
  split
  · next hecc => simp [hecc]
  next e hecc =>
  rw [workingLevel_of_levelOf hecc]
  refine .of_not_cause (by simp [hecc]) ?_
  obtain ⟨h40, hres⟩ | ⟨h40, hlarge, hres⟩ | ⟨h40, hfits, v, hres⟩ := resolveVersion_cases ver s.len.toNat mo e
  · simp [hres, h40]
  · simp [hres, h40, hlarge]
  · rw [if_neg h40, if_neg hfits, hres]
    dsimp only
    split
    · next hmask => simp [hmask]
    · next hmask => simp [hmask]

/-- A command completes with the code of the first cause it meets: its checks in their order are the causes in the
order of R158, once the causes are written as the conditions of the checks. -/
theorem exec_completesWith_firstCause (i : Instr) (s : State) : CompletesWith (exec i s) (firstCause i s) := by
  cases i
  all_goals simp only [exec, firstCause_eq, causes.eq_def, phaseAllowed.eq_def, Bool.not_true, Bool.false_eq_true,
    if_false, decide_eq_true_eq, ← modeOf_eq_none_iff, ← levelOf_eq_none_iff, ← versionOf_eq_none_iff_range,
    ← maskOf_eq_none_iff, ← modeChoice_eq_none_iff, ← maskChoice_eq_none_iff]
  case nop | tblinit => exact completesWith_ok _
  case gfmul | gfexp | gflog | genrd => exact .of_guard (by omega) fun _ => completesWith_ok _
  case rsrem => exact .of_guard (by rw [s.remInRange_iff]; omega) fun _ => completesWith_ok _
  case place | score => exact .of_guard (by simp [State.hasBase, State.hasData]) fun _ => completesWith_ok _
  case capq ecc ver mode =>
    fun_cases execCapq ecc ver mode s
    all_goals simp [*]
  case bchq ecc ver mask =>
    fun_cases execBchq ecc ver mask s
    all_goals simp [*]
  case augment ecc ver =>
    fun_cases execAugment ecc ver s
    all_goals simp [*]
  case buildbase ver =>
    fun_cases execBuildbase ver s
    all_goals simp [*]
  case applymask mask =>
    refine .of_guard (by simp [State.hasData]) fun _ => ?_
    split
    all_goals simp [*]
  case writefmt ecc mask =>
    refine .of_guard (by simp [State.hasBase]) fun _ => ?_
    split
    · next hecc => simp [hecc]
    split
    all_goals simp [*]
  case select ecc mask =>
    refine .of_guard (by simp) fun _ => ?_
    split
    · next hecc => simp [hecc]
    split
    all_goals simp [*]
  case validate mode =>
    cases hmode : modeChoice mode with
    | none => simp [execValidate, hmode]
    | some c =>
      rw [execValidate_eq s hmode]
      exact .of_check Iff.rfl fun _ => .of_check (by simp) fun _ => completesWith_ok _
  case pack ecc ver mode => exact execPack_completesWith ecc ver mode s
  case generate ecc ver mode mask => exact execGenerate_completesWith ecc ver mode mask s

/-! ## The word in flight -/

/-- A command word meets the causes of its command (R158). -/
theorem reportedError_command {w : Word} {i : Instr} (hi : decodeWord w = .ok i) (s : State) :
    reportedError w s = firstCause i s := by
  have hlegal : ¬ (2 ^ 22 ≤ w.toNat ∨ 0x12 < w.toNat % 32) := by
    obtain ⟨hw, -⟩ | ⟨-, e, he⟩ := decodeWord_cases w
    · omega
    · cases he.symm.trans hi
  have hcauses : wordCauses w s = causes i s := by
    funext e
    cases e with
    | illegalCommand => exact decide_eq_false hlegal
    | _ => simp only [wordCauses, hi]
  rw [reportedError, hcauses, firstCause]

/-- A word that is no command meets the cause of IllegalCommand (R72), which is the first (R158). -/
theorem reportedError_reserved {w : Word} {e : DecodeError} (he : decodeWord w = .error e) (s : State) :
    reportedError w s = .illegalCommand := by
  have hillegal : wordCauses w s .illegalCommand = true := by
    obtain ⟨-, i, hi, -⟩ | ⟨hw, -⟩ := decodeWord_cases w
    · cases he.symm.trans hi
    · exact decide_eq_true (by omega)
  rw [reportedError, errorOrder, List.find?_cons_of_pos hillegal]
  rfl

/-- The causes speak of no turn to come. -/
theorem reportedError_turns (w : Word) (s : State) (turns : List Turn) :
    reportedError w { s with turns := turns } = reportedError w s := rfl

/-- Settles O13: the engine's turn runs the command of the word, or completes a reserved word with IllegalCommand. -/
theorem theFirstErrorInOrderIsReported : Obligations.TheFirstErrorInOrderIsReported := by
  intro s rest h hturns
  have hrest : Running { s with turns := rest } := h
  rw [step_engine hturns, ← reportedError_turns s.cmd s rest]
  cases hdecode : decodeWord s.cmd with
  | ok i =>
    rw [State.engineTurn_command hrest hdecode, reportedError_command hdecode]
    exact exec_completesWith_firstCause i _
  | error e =>
    rw [State.engineTurn_reserved hrest hdecode, reportedError_reserved hdecode]
    exact ⟨_, rfl, rfl⟩

end Sys2Proof.Machine
end

section
/-! SUPPORT. The completion of a command in flight and the two edges of the platform reset (70_reset_and_hazards.md
R169, R172, R174). -/

namespace Sys2Proof.Machine

open Sys2Proof.Claims

/-! ## The completion of a command in flight -/

/-- A command in flight stays in flight, with its word, over a host access (R52, R60). -/
theorem State.hostAccess_running {s : State} (h : Running s) (x : Access) :
    Running (s.hostAccess x) ∧ (s.hostAccess x).cmd = s.cmd ∧ (s.hostAccess x).turns = s.turns := by
  cases x with
  | read off width =>
    obtain ⟨r, n, b, hread⟩ := s.hostRead_frame off.toNat width
    rw [State.hostAccess, hread]
    exact ⟨h, rfl, rfl⟩
  | write off width w =>
    rw [State.hostAccess, State.hostWrite_running h]
    exact ⟨h, rfl, rfl⟩

/-- The engine's turn completes the word in flight, whether it is a command or reserved (R160, R172). -/
theorem State.engineTurn_completes {s : State} (h : Running s) :
    ∃ t, s.engineTurn = .next t ∧ t.busy = false ∧ t.done = true ∧ t.cmd = s.cmd ∧ t.turns = s.turns := by
  cases hdecode : decodeWord s.cmd with
  | ok i =>
    obtain ⟨t, ht⟩ := exec_goes i s
    refine ⟨t, (State.engineTurn_command h hdecode).trans ht, ?_⟩
    rw [exec_eq_complete ht]
    exact ⟨rfl, rfl, rfl, rfl⟩
  | error e => exact ⟨_, State.engineTurn_reserved h hdecode, rfl, rfl, rfl, rfl⟩

/-- A run steps first and runs on from the next state. -/
theorem core_run_succ {s t : State} (h : step s = .next t) (n : Nat) : core.run (n + 1) s = core.run n t := by
  have hstep : core.step s = .next t := h
  simp only [Host.Core.run, hstep]

/-- Settles O12, by induction on the host accesses before the engine's turn: each leaves the command in flight. -/
theorem aCommandInFlightCompletes : Obligations.ACommandInFlightCompletes := by
  intro s window rest hrun hturns
  induction window generalizing s with
  | nil =>
    obtain ⟨t, ht, hdone⟩ := State.engineTurn_completes (s := { s with turns := rest }) hrun
    exact ⟨t, core_run_succ ((step_engine hturns).trans ht) 0, hdone⟩
  | cons x xs ih =>
    obtain ⟨hrun', hcmd, hturns'⟩ := State.hostAccess_running
      (s := { s with turns := xs.map Turn.host ++ .engine :: rest }) hrun x
    obtain ⟨t, ht, hbusy, hdone, hcmd', hrest⟩ := ih _ hrun' hturns'
    exact ⟨t, (core_run_succ (step_host hturns) _).trans ht, hbusy, hdone, hcmd'.trans hcmd, hrest⟩

/-! ## Reset -/

/-- A step with a turn to come is that turn. -/
theorem step_turn {s : State} {turn : Turn} {rest : List Turn} (h : s.turns = turn :: rest) :
    step s = ({ s with turns := rest } : State).takeTurn turn := by
  rw [step, State.advance, h]

theorem State.hostWrite_inReset {s : State} (h : s.inReset = true) (a width : Nat) (w : Word) :
    s.hostWrite a width w = { s with reply := .done } := if_pos h

theorem State.hostRead_inReset {s : State} (h : s.inReset = true) (a width : Nat) :
    s.hostRead a width = { s with reply := .data (freeWord s.draws width), draws := s.draws + 4 } := if_pos h

theorem State.engineTurn_inReset {s : State} (h : s.inReset = true) : s.engineTurn = .next s :=
  if_pos (by rw [h, Bool.true_or])

theorem State.releaseReset_inReset {s : State} (h : s.inReset = true) :
    s.releaseReset = { State.reset with turns := s.turns, reply := s.reply, draws := s.draws } := if_pos h

/-- Settles O22: an edge of reset is a turn of its own, and between the edges the reset line is checked before
anything else. -/
theorem resetReplacesEverything : Obligations.ResetReplacesEverything := by
  intro s t rest
  refine ⟨fun hturns hstep => ?_, fun hreset a width w => ?_, State.engineTurn_inReset, fun hreset hturns => ?_⟩
  · cases (step_turn hturns).symm.trans hstep
    rfl
  · exact ⟨State.hostWrite_inReset hreset a width w, _, State.hostRead_inReset hreset a width⟩
  · exact (step_turn hturns).trans
      (congrArg _ (State.releaseReset_inReset (s := { s with turns := rest }) hreset))

end Sys2Proof.Machine
end

section
/-! SUPPORT. The phase of the matrix (70_reset_and_hazards.md R175): the check of the phase comes first, and the effect
of a command leaves the phase of the table. -/

namespace Sys2Proof.Machine

open Sys2Proof.Claims

/-! ## The check of the phase -/

/-- Out of phase a command only completes with SequenceError; only five commands have a phase to check. -/
theorem exec_of_not_phaseAllowed {i : Instr} {s : State} (h : phaseAllowed i s.phase = false) :
    exec i s = .next (s.raise .sequenceError) := by
  cases i with
  | place | writefmt =>
    have hempty : s.phase = .empty := by simpa [phaseAllowed] using h
    exact if_neg (by simp [State.hasBase, hempty])
  | applymask | score =>
    have hdata : s.hasData = false := h
    exact if_neg (by simp [hdata])
  | select =>
    have hplaced : s.phase ≠ .placed := by simpa [phaseAllowed] using h
    exact if_neg hplaced
  | _ => cases h

/-- A command meets the cause that is first. -/
theorem causes_of_firstCause {i : Instr} {s : State} {e : ErrCode} (he : e ≠ .ok) (h : firstCause i s = e) :
    causes i s e = true := by
  unfold firstCause at h
  cases hfind : errorOrder.find? (causes i s) with
  | none => exact absurd (by simpa [hfind] using h.symm) he
  | some c =>
    obtain rfl : c = e := by simpa [hfind] using h
    exact List.find?_some hfind

/-- In phase a command does not end with SequenceError: the phase is that error's only cause. -/
theorem firstCause_of_phaseAllowed {i : Instr} {s : State} (h : phaseAllowed i s.phase = true) :
    firstCause i s ≠ .sequenceError := by
  intro hfirst
  have hcause : (!phaseAllowed i s.phase) = true := causes_of_firstCause (by decide) hfirst
  simp [h] at hcause

/-- A command ends with the code of the first cause, and with no other. -/
theorem err_of_exec {i : Instr} {s t : State} (h : exec i s = .next t) : t.err = firstCause i s := by
  obtain ⟨u, hu, herr⟩ := exec_completesWith_firstCause i s
  obtain rfl : u = t := Host.Outcome.next.inj (hu.symm.trans h)
  exact herr

/-! ## The phase a command leaves -/

/-- The effect of a command leaves the phase of the table. -/
theorem State.Effect.phase {s u : State} {i : Instr} (he : s.Effect i u) : u.phase = phaseAfter i s.phase := by
  cases he with
  | select e c => exact s.selectMask_phase e c
  | generate => exact State.selectMask_phase _ _ _
  | _ => rfl

/-- A command ends with an error code, or in phase `p` and then completion. -/
inductive FailsOrLeaves (p : Phase) : Host.Outcome State Fault Refusal → Prop where
  | fails (s : State) {e : ErrCode} (he : e ≠ .ok) : FailsOrLeaves p (.next (s.raise e))
  | leaves {u : State} (hu : u.phase = p) : FailsOrLeaves p (.next u.finish)

/-- A command that keeps the phase leaves it whichever way it ends, so the code of its errors does not matter. -/
theorem State.Ends.failsOrLeaves {s : State} {i : Instr} {o : Host.Outcome State Fault Refusal} (h : s.Ends i o)
    (hkeeps : phaseAfter i s.phase = s.phase) : FailsOrLeaves (phaseAfter i s.phase) o := by
  cases h with
  | fails n e =>
    obtain rfl | he := eq_or_ne e .ok
    · exact .leaves (u := s.drew n) hkeeps.symm
    · exact .fails _ he
  | succeeds hu => exact .leaves hu.phase

theorem execSelect_failsOrLeaves (ecc : BitVec 3) (mask : BitVec 4) (s : State) :
    FailsOrLeaves .final (execSelect ecc mask s) := by
  unfold execSelect
  split
  · split
    · exact .fails _ (by decide)
    split
    · exact .fails _ (by decide)
    · exact .leaves (s.selectMask_phase _ _)
  · exact .fails _ (by decide)

theorem execGenerate_failsOrLeaves (ecc : BitVec 3) (ver : BitVec 6) (mode mask : BitVec 4) (s : State) :
    FailsOrLeaves .final (execGenerate ecc ver mode mask s) := by
  unfold execGenerate
  split
  · exact .fails _ (by decide)
  split
  · exact .fails _ (by decide)
  dsimp only
  split
  · exact .fails _ (by decide)
  split
  · exact .fails _ (by decide)
  split
  · next herr => exact .fails _ (resolveVersion_ne_ok herr)
  split
  · exact .fails _ (by decide)
  · exact .leaves (State.selectMask_phase _ _ _)

/-- A command that completes without error leaves the phase of the table. -/
theorem exec_failsOrLeaves (i : Instr) (s : State) : FailsOrLeaves (phaseAfter i s.phase) (exec i s) := by
  cases i with
  | buildbase ver =>
    simp only [exec, execBuildbase]
    split
    · exact .fails _ (by decide)
    · exact .leaves rfl
  | place =>
    simp only [exec, execPlace]
    split
    · exact .leaves rfl
    · exact .fails _ (by decide)
  | select ecc mask => exact execSelect_failsOrLeaves ecc mask s
  | generate ecc ver mode mask => exact execGenerate_failsOrLeaves ecc ver mode mask s
  | _ => exact (exec_ends _ s).failsOrLeaves rfl

/-! ## The host's accesses -/

/-- No access of the host changes the phase (R175). -/
@[simp] theorem State.hostAccess_phase (s : State) (x : Access) : (s.hostAccess x).phase = s.phase := by
  cases x with
  | read off width =>
    obtain ⟨r, n, b, hread⟩ := s.hostRead_frame off.toNat width
    rw [State.hostAccess, hread]
  | write off width w =>
    obtain ⟨-, -, -, -, hw⟩ | ⟨n, hw⟩ | ⟨-, hw⟩ := s.hostWrite_cases off.toNat width w
    · rw [State.hostAccess, hw]
      rfl
    · rw [State.hostAccess, hw]
    · rw [State.hostAccess, hw]

/-- Settles O31: the check of the phase is the only source of SequenceError, an error changes no phase, and the effect
of a command leaves the one of the table. -/
theorem matrixPhasesFollowTheTable : Obligations.MatrixPhasesFollowTheTable := by
  refine ⟨fun i s h => exec_of_not_phaseAllowed h, fun i s t hallowed h => ⟨?_, ?_⟩, State.hostAccess_phase⟩
  · rw [err_of_exec h]
    exact firstCause_of_phaseAllowed hallowed
  · have hends := exec_failsOrLeaves i s
    rw [h] at hends
    split
    · next hok =>
      cases hends with
      | fails _ he => exact absurd hok he
      | leaves hu => exact hu
    · next herr => rw [aFailingCommandChangesNothing i s t h herr]

end Sys2Proof.Machine
end
